-- ==== Sys2Proof/Word.lean ====
section
/-! DEFINITION. The word types of CANFC: 32-bit words, bytes, slot numbers (00_scope.md R3: bit 0 is the least
significant bit and every value is unsigned; 10_state.md R10: four slots). -/

namespace Sys2Proof

/-- A 32-bit unsigned word: an identifier word, a numeric id, a command word, a scalar result. -/
abbrev Word := BitVec 32

/-- An 8-bit unsigned byte: a payload byte, a length, a flags byte, a character of a text. -/
abbrev Byte := BitVec 8

/-- A slot number, 0 to 3. All four values of a 2-bit slot field name a slot (30_encoding.md R56 (b)),
so the type holds exactly the slot numbers there are (`NSLOT = 4`, 00_scope.md R2). -/
abbrev SlotNo := Fin 4

end Sys2Proof
end

