-- ==== Sys2Proof/Config.lean ====
section
/-! DEFINITION. The parameters of 00_scope.md R2: the values the source leaves open. Those that are plain data are the
fields of `Config`, which a state carries unchanged through a run (log entry 4); the collaborator `ERR_DECODE` is the
opaque function `Config.errDecode` (log entry 5). -/

namespace Sys2Proof

/-- The byte order of the identifier word inside a frame image (20_memory.md R32). -/
inductive Endian where
  | little
  | big
  deriving DecidableEq, Repr

/-- The separator between payload bytes in the text rendering, parameter `RENDER_SEP` (00_scope.md R2). -/
inductive RenderSep where
  | space
  | none
  deriving DecidableEq, Repr

/-- The parameters of 00_scope.md R2 that are plain data. `NSLOT` is fixed at 4 by the slot fields of the command word
and is the type `SlotNo`. -/
structure Config where
  /-- `ERR_MASK`: yields the error word from the identifier word. -/
  errMask : Word
  /-- `BRS_MASK`: the bit-rate-switch bit of the FD flags byte. -/
  brsMask : Byte
  /-- `ESI_MASK`: the error-state-indicator bit of the FD flags byte. -/
  esiMask : Byte
  /-- `IMAGE_ENDIAN`. -/
  imageEndian : Endian
  /-- `CLASSIC_IMAGE_SIZE`, in bytes. -/
  classicImageSize : Nat
  /-- `CLASSIC_DATA_OFFSET`: offset of payload byte 0 in a classic image. -/
  classicDataOffset : Nat
  /-- `FD_IMAGE_SIZE`, in bytes. -/
  fdImageSize : Nat
  /-- `FD_DATA_OFFSET`: offset of payload byte 0 in an FD image. -/
  fdDataOffset : Nat
  /-- `RENDER_SEP`. -/
  renderSep : RenderSep
  deriving DecidableEq, Repr

/-- The default of every parameter (00_scope.md R2). The masks, sizes and offsets are the spec's own defaults, which it
marks as taken from general knowledge (93_implementation_defined.md G1 to G3); no statement about all states uses them. -/
def Config.default : Config where
  errMask := 0x1FFFFFFF#32
  brsMask := 0x01#8
  esiMask := 0x02#8
  imageEndian := .little
  classicImageSize := 16
  classicDataOffset := 8
  fdImageSize := 72
  fdDataOffset := 8
  renderSep := .space

/-- `ERR_DECODE` (00_scope.md R2, 43_frame_contract.md R112): the external error-decoding collaborator, a total function
of the kind's tag code and the frame image; `some v` is its `Ok(v)`, `none` its `Fail`. It has no body: nothing can be
proved of its values (93_implementation_defined.md U1). -/
opaque Config.errDecode (tagCode : Word) (image : List Byte) : Option Word

end Sys2Proof
end

