-- ==== Sys2Proof/Syntax.lean ====
section
/-! DEFINITION. The 36 commands of CANFC as syntax (30_encoding.md R57), one constructor per row of
spec/opcode_table.json, with the live fields of its format (R55). The operands that travel beside the command word
(`ARG`, `DLEN`, `DIN`) are fields of the command port, not of the command word (10_state.md R17). -/

namespace Sys2Proof

/-- A legal command word, its live fields pulled out. `fd` is the destination slot, `fs` and `ft` the source slots;
the Booleans are the flag bits (30_encoding.md R54, R56). -/
inductive Instr where
  -- system (47_system.md)
  | nop
  | rdst
  | clrst
  -- identifier codec (40_identifier_codec.md)
  | idpack (err rtr ext : Bool)
  | idraw
  | idsem
  | idflg
  -- classic frame construction (41_classic_frame.md)
  | cnew (fd : SlotNo) (err rtr ext : Bool)
  | crtr (fd : SlotNo)
  -- FD frame construction and flags (42_fd_frame.md)
  | fnew (fd : SlotNo) (esi brs err ext : Bool)
  | frtr (fd : SlotNo)
  | fsbrs (fs : SlotNo) (on : Bool)
  | fsesi (fs : SlotNo) (on : Bool)
  | fgbrs (fs : SlotNo)
  | fgesi (fs : SlotNo)
  | fgflg (fs : SlotNo)
  -- frame capability contract (43_frame_contract.md)
  | gidw (fs : SlotNo)
  | graw (fs : SlotNo)
  | gsid (fs : SlotNo)
  | glen (fs : SlotNo)
  | gerrw (fs : SlotNo)
  | giserr (fs : SlotNo)
  | gisext (fs : SlotNo)
  | gisrtr (fs : SlotNo)
  | gdata (fs : SlotNo)
  | gkind (fs : SlotNo)
  | decerr (fs : SlotNo)
  -- frame union and kind conversions (44_union_conversions.md)
  | widen (fd fs : SlotNo)
  | narrow (fd fs : SlotNo)
  | fmov (fd fs : SlotNo)
  | fclr (fd : SlotNo)
  | feq (fs ft : SlotNo)
  -- raw images (45_raw_image.md)
  | ser (fs : SlotNo)
  | desc (fd : SlotNo)
  | desf (fd : SlotNo)
  -- canonical text rendering (46_text_rendering.md)
  | rend (fs : SlotNo)
  deriving DecidableEq, Repr

end Sys2Proof
end

