-- ==== Sys2Proof/WellFormed.lean ====
section
/-! DEFINITION. Well-formedness. A command needs no check of its own: every slot number 0 to 3 and every flag bit is legal
(30_encoding.md R56 (b): 'no slot number is out of range'), and the types of `Instr` hold exactly those. What can be
ill-formed is the parameter set: 00_scope.md R2 constrains it, and `Config.wf` is that constraint, check by check. -/

namespace Sys2Proof

/-- Every term of `Instr` is a legal command (30_encoding.md R56): the bounds of its fields are in their types, so
nothing is left to check. -/
def Instr.wf (_ : Instr) : Bool := true

/-- Exactly one bit of the byte is set (00_scope.md R2, the constraint on `BRS_MASK` and `ESI_MASK`). -/
def oneBit (m : Byte) : Bool := (List.range 8).any fun k => m == 1#8 <<< k

/-- `BRS_MASK` and `ESI_MASK` are distinct single bits (00_scope.md R2). -/
def Config.masksWf (c : Config) : Bool := oneBit c.brsMask && oneBit c.esiMask && c.brsMask != c.esiMask

/-- The classic image: the payload starts at offset 5 or later, fits the image, and the image fits `DIN[0..71]`
(00_scope.md R2: size at least 5 + 8, offset at least 5; that the payload fits behind its offset and the image on the
command port is DEDUCED, log entry 4). -/
def Config.classicImageWf (c : Config) : Bool :=
  decide (5 ≤ c.classicDataOffset) && decide (c.classicDataOffset + 8 ≤ c.classicImageSize) &&
    decide (c.classicImageSize ≤ 72)

/-- The FD image: the payload starts at offset 6 or later, fits the image, and the image fits `DIN[0..71]`
(00_scope.md R2: size at least 6 + 64, offset at least 6; the rest DEDUCED as for the classic image, log entry 4). -/
def Config.fdImageWf (c : Config) : Bool :=
  decide (6 ≤ c.fdDataOffset) && decide (c.fdDataOffset + 64 ≤ c.fdImageSize) && decide (c.fdImageSize ≤ 72)

/-- The constraints of 00_scope.md R2 on the parameters. -/
def Config.wf (c : Config) : Bool := c.masksWf && c.classicImageWf && c.fdImageWf

end Sys2Proof
end

