-- ==== Sys2Proof/Decode.lean ====
section
/-! DEFINITION. The command decoder, total on all 2^32 command words (30_encoding.md R60), and the encoder, both written
from the field table R54, the format table R55 and the opcode map R57. -/

namespace Sys2Proof

/-- The formats of 30_encoding.md R55. -/
inductive Format where
  | z | p | kc | kf | l | s | m | d | t
  deriving DecidableEq, Repr

/-- The bits a decoder compares: opcode bits and must-be-zero bits (30_encoding.md R55). -/
def Format.mask : Format → Word
  | .z => 0xFFFFFFFF#32
  | .p => 0xFFFFFFF8#32
  | .kc => 0xFF3FFFF8#32
  | .kf => 0xFF3FFFE2#32
  | .l => 0xFF3FFFFF#32
  | .s => 0xFFCFFFFF#32
  | .m => 0xFFCFFFFE#32
  | .d => 0xFF0FFFFF#32
  | .t => 0xFFC3FFFF#32

/-- `CW[31:24]` (30_encoding.md R54). -/
def opcField (w : Word) : Byte := w.extractLsb' 24 8

/-- `CW[23:22]`, the destination slot. -/
def fdField (w : Word) : SlotNo := (w.extractLsb' 22 2).toFin

/-- `CW[21:20]`, the source slot. -/
def fsField (w : Word) : SlotNo := (w.extractLsb' 20 2).toFin

/-- `CW[19:18]`, the second source slot. -/
def ftField (w : Word) : SlotNo := (w.extractLsb' 18 2).toFin

/-- `CW[4]`. -/
def esiField (w : Word) : Bool := w.getLsbD 4

/-- `CW[3]`. -/
def brsField (w : Word) : Bool := w.getLsbD 3

/-- `CW[2]`. -/
def errField (w : Word) : Bool := w.getLsbD 2

/-- `CW[1]`. -/
def rtrField (w : Word) : Bool := w.getLsbD 1

/-- `CW[0]`, the `ext` argument; for `FSBRS` and `FSESI` the same bit is the `on` argument. -/
def extField (w : Word) : Bool := w.getLsbD 0

/-- One row of the opcode map 30_encoding.md R57: opcode, mnemonic, format, and the command its live fields make. -/
structure OpRow where
  opc : Byte
  mnemonic : String
  format : Format
  build : Word → Instr

/-- `opc << 24`, the value an instance of the row has under the format's mask (30_encoding.md R55). -/
def OpRow.pattern (r : OpRow) : Word := r.opc.setWidth 32 <<< 24

/-- The opcode map of 30_encoding.md R57, opcodes 0x00 to 0x36. -/
def opRowsLow : List OpRow :=
  [⟨0x00#8, "NOP", .z, fun _ => .nop⟩,
   ⟨0x01#8, "RDST", .z, fun _ => .rdst⟩,
   ⟨0x02#8, "CLRST", .z, fun _ => .clrst⟩,
   ⟨0x10#8, "IDPACK", .p, fun w => .idpack (errField w) (rtrField w) (extField w)⟩,
   ⟨0x11#8, "IDRAW", .z, fun _ => .idraw⟩,
   ⟨0x12#8, "IDSEM", .z, fun _ => .idsem⟩,
   ⟨0x13#8, "IDFLG", .z, fun _ => .idflg⟩,
   ⟨0x20#8, "CNEW", .kc, fun w => .cnew (fdField w) (errField w) (rtrField w) (extField w)⟩,
   ⟨0x21#8, "CRTR", .l, fun w => .crtr (fdField w)⟩,
   ⟨0x30#8, "FNEW", .kf, fun w => .fnew (fdField w) (esiField w) (brsField w) (errField w) (extField w)⟩,
   ⟨0x31#8, "FRTR", .l, fun w => .frtr (fdField w)⟩,
   ⟨0x32#8, "FSBRS", .m, fun w => .fsbrs (fsField w) (extField w)⟩,
   ⟨0x33#8, "FSESI", .m, fun w => .fsesi (fsField w) (extField w)⟩,
   ⟨0x34#8, "FGBRS", .s, fun w => .fgbrs (fsField w)⟩,
   ⟨0x35#8, "FGESI", .s, fun w => .fgesi (fsField w)⟩,
   ⟨0x36#8, "FGFLG", .s, fun w => .fgflg (fsField w)⟩]

/-- The opcode map of 30_encoding.md R57, opcodes 0x40 to 0x70. -/
def opRowsHigh : List OpRow :=
  [⟨0x40#8, "GIDW", .s, fun w => .gidw (fsField w)⟩,
   ⟨0x41#8, "GRAW", .s, fun w => .graw (fsField w)⟩,
   ⟨0x42#8, "GSID", .s, fun w => .gsid (fsField w)⟩,
   ⟨0x43#8, "GLEN", .s, fun w => .glen (fsField w)⟩,
   ⟨0x44#8, "GERRW", .s, fun w => .gerrw (fsField w)⟩,
   ⟨0x45#8, "GISERR", .s, fun w => .giserr (fsField w)⟩,
   ⟨0x46#8, "GISEXT", .s, fun w => .gisext (fsField w)⟩,
   ⟨0x47#8, "GISRTR", .s, fun w => .gisrtr (fsField w)⟩,
   ⟨0x48#8, "GDATA", .s, fun w => .gdata (fsField w)⟩,
   ⟨0x49#8, "GKIND", .s, fun w => .gkind (fsField w)⟩,
   ⟨0x4A#8, "DECERR", .s, fun w => .decerr (fsField w)⟩,
   ⟨0x50#8, "WIDEN", .d, fun w => .widen (fdField w) (fsField w)⟩,
   ⟨0x51#8, "NARROW", .d, fun w => .narrow (fdField w) (fsField w)⟩,
   ⟨0x52#8, "FMOV", .d, fun w => .fmov (fdField w) (fsField w)⟩,
   ⟨0x53#8, "FCLR", .l, fun w => .fclr (fdField w)⟩,
   ⟨0x54#8, "FEQ", .t, fun w => .feq (fsField w) (ftField w)⟩,
   ⟨0x60#8, "SER", .s, fun w => .ser (fsField w)⟩,
   ⟨0x61#8, "DESC", .l, fun w => .desc (fdField w)⟩,
   ⟨0x62#8, "DESF", .l, fun w => .desf (fdField w)⟩,
   ⟨0x70#8, "REND", .s, fun w => .rend (fsField w)⟩]

/-- The opcode map, 36 rows (30_encoding.md R57). -/
def opRows : List OpRow := opRowsLow ++ opRowsHigh

/-- Why a command word is illegal (30_encoding.md R58). -/
inductive DecodeError where
  /-- (a): the opcode is none of the 36 of R57. -/
  | unassignedOpcode
  /-- (b): the opcode is assigned and a bit its format does not use is set. -/
  | reservedBitSet
  deriving DecidableEq, Repr

/-- The decoding procedure of 30_encoding.md R60: look the opcode up, compare under the format's mask, extract the live
fields. Total on every word; it reads no state. -/
def decode (w : Word) : Except DecodeError Instr :=
  match opRows.find? (fun r => r.opc == opcField w) with
  | none => .error .unassignedOpcode
  | some r => if w &&& r.format.mask = r.pattern then .ok (r.build w) else .error .reservedBitSet

/-- A slot number placed at a bit position. -/
def putSlot (n : SlotNo) (pos : Nat) : Word := BitVec.ofNat 32 n.val <<< pos

/-- A flag placed at a bit position. -/
def putFlag (b : Bool) (pos : Nat) : Word := (BitVec.ofBool b).setWidth 32 <<< pos

/-- The command word of a command: the `CW = ...` line of its rule's Encoding (files 40 to 47). -/
def encode : Instr → Word
  | .nop => 0x00000000#32
  | .rdst => 0x01000000#32
  | .clrst => 0x02000000#32
  | .idpack err rtr ext => 0x10000000#32 ||| putFlag err 2 ||| putFlag rtr 1 ||| putFlag ext 0
  | .idraw => 0x11000000#32
  | .idsem => 0x12000000#32
  | .idflg => 0x13000000#32
  | .cnew fd err rtr ext =>
    0x20000000#32 ||| putSlot fd 22 ||| putFlag err 2 ||| putFlag rtr 1 ||| putFlag ext 0
  | .crtr fd => 0x21000000#32 ||| putSlot fd 22
  | .fnew fd esi brs err ext =>
    0x30000000#32 ||| putSlot fd 22 ||| putFlag esi 4 ||| putFlag brs 3 ||| putFlag err 2 ||| putFlag ext 0
  | .frtr fd => 0x31000000#32 ||| putSlot fd 22
  | .fsbrs fs on => 0x32000000#32 ||| putSlot fs 20 ||| putFlag on 0
  | .fsesi fs on => 0x33000000#32 ||| putSlot fs 20 ||| putFlag on 0
  | .fgbrs fs => 0x34000000#32 ||| putSlot fs 20
  | .fgesi fs => 0x35000000#32 ||| putSlot fs 20
  | .fgflg fs => 0x36000000#32 ||| putSlot fs 20
  | .gidw fs => 0x40000000#32 ||| putSlot fs 20
  | .graw fs => 0x41000000#32 ||| putSlot fs 20
  | .gsid fs => 0x42000000#32 ||| putSlot fs 20
  | .glen fs => 0x43000000#32 ||| putSlot fs 20
  | .gerrw fs => 0x44000000#32 ||| putSlot fs 20
  | .giserr fs => 0x45000000#32 ||| putSlot fs 20
  | .gisext fs => 0x46000000#32 ||| putSlot fs 20
  | .gisrtr fs => 0x47000000#32 ||| putSlot fs 20
  | .gdata fs => 0x48000000#32 ||| putSlot fs 20
  | .gkind fs => 0x49000000#32 ||| putSlot fs 20
  | .decerr fs => 0x4A000000#32 ||| putSlot fs 20
  | .widen fd fs => 0x50000000#32 ||| putSlot fd 22 ||| putSlot fs 20
  | .narrow fd fs => 0x51000000#32 ||| putSlot fd 22 ||| putSlot fs 20
  | .fmov fd fs => 0x52000000#32 ||| putSlot fd 22 ||| putSlot fs 20
  | .fclr fd => 0x53000000#32 ||| putSlot fd 22
  | .feq fs ft => 0x54000000#32 ||| putSlot fs 20 ||| putSlot ft 18
  | .ser fs => 0x60000000#32 ||| putSlot fs 20
  | .desc fd => 0x61000000#32 ||| putSlot fd 22
  | .desf fd => 0x62000000#32 ||| putSlot fd 22
  | .rend fs => 0x70000000#32 ||| putSlot fs 20

/-- A table row's `nbits` bits `w` as the 32-bit command word the port carries: bit 0 of the table is bit 0 of `CW`, and
every bit above `nbits` is 0 (30_encoding.md R53: every command word is exactly 32 bits). -/
def tableWord (nbits w : Nat) : Word := BitVec.ofNat 32 (w % 2 ^ nbits)

/-- The command the decoder reads from a table row's bits. -/
def decodeTableWord (nbits w : Nat) : Option Instr := (decode (tableWord nbits w)).toOption

end Sys2Proof
end

