-- ==== Sys2Proof/Machine/State.lean ====
section
/-! DEFINITION. The state of CANFC as plain data: the four frame slots, the status register, the two ports
(10_state.md R10 to R18), the host's stream of events still to come, and the parameters of 00_scope.md R2. -/

namespace Sys2Proof.Machine

/-- The outcome of a command, the eight codes that occur (60_exceptions.md R161). The unused codes 5 to 7 and 11 to 15
are not in the type (93_implementation_defined.md U4). -/
inductive StatusCode where
  | ok
  | idTooLarge
  | tooMuchData
  | notConstructible
  | decodeFail
  | eKind
  | eIllegal
  | eFormat
  deriving DecidableEq, Repr

/-- The `STATUS` register, its two fields (10_state.md R15). Bits 7:5 are hardwired zero and have no storage. -/
structure Status where
  /-- `STATUS[3:0]`: the code of the most recent command other than `NOP`, `RDST`, `CLRST`. -/
  last : StatusCode
  /-- `STATUS[4]`: some command since the last clear completed with a code other than `OK`. -/
  sticky : Bool
  deriving DecidableEq, Repr

/-- A classic frame (10_state.md R11). -/
structure ClassicFrame where
  idw : Word
  len : Byte
  data : Vector Byte 8
  deriving DecidableEq, Repr

/-- An FD frame (10_state.md R11). -/
structure FdFrame where
  idw : Word
  len : Byte
  flags : Byte
  data : Vector Byte 64
  deriving DecidableEq, Repr

/-- The value of a frame slot: exactly one of `EMPTY`, a classic frame, an FD frame (10_state.md R10, R11). -/
inductive Slot where
  | empty
  | classic (f : ClassicFrame)
  | fd (f : FdFrame)
  deriving DecidableEq, Repr

/-- The command port: the fields of one command, presented and sampled together (10_state.md R17). -/
structure Command where
  /-- `CW`, the command word. -/
  cw : Word
  /-- `ARG`, the numeric id or identifier word operand. -/
  arg : Word
  /-- `DLEN`, the length operand. -/
  dlen : Byte
  /-- `DIN[0..71]`, payload bytes or a frame image. -/
  din : Vector Byte 72
  deriving DecidableEq, Repr

/-- A command word with every operand field zero. -/
def Command.ofWord (w : Word) : Command := ⟨w, 0, 0, Vector.replicate 72 0⟩

/-- The response port: the one response of a command (10_state.md R18). `RSP.BLEN` is the number of bytes
(`Response.blen`). -/
structure Response where
  /-- `RSP.ST`. -/
  st : StatusCode
  /-- `RSP.VAL`. -/
  val : Word
  /-- `RSP.BYTES`. -/
  bytes : List Byte
  deriving DecidableEq, Repr

/-- What the host can do to the block next: present a command (60_exceptions.md R171), or assert and release the reset
input (70_reset_and_hazards.md R180). -/
inductive HostEvent where
  | command (c : Command)
  | reset
  deriving DecidableEq, Repr

/-- The state. `slots` and `status` are the block's state (00_scope.md R7); `port` and `rsp` are its two ports
(10_state.md R17, R18); `stream` and `cfg` are the model's own fields (log entries 1 and 4). -/
structure State where
  /-- `F[0]` to `F[3]`. -/
  slots : Vector Slot 4
  /-- `STATUS`. -/
  status : Status
  /-- The command port as last sampled. -/
  port : Command
  /-- The response port: the response of the last command, `none` before the first. -/
  rsp : Option Response
  /-- The host's events still to come, the next one first. -/
  stream : List HostEvent
  /-- The parameters of 00_scope.md R2, fixed for a run. -/
  cfg : Config
  deriving DecidableEq, Repr

/-- Why the machine stops with a fault: never. The type has no constructor, because no status code makes the block stuck
and none ends a run (60_exceptions.md R165, R171); a failing command completes with a response and a next state (R160). -/
inductive Fault where
  deriving DecidableEq, Repr

/-- Why the machine refuses a command. -/
inductive Refusal where
  /-- Raised by an arm of `exec` whose command has no meaning yet, and by nothing else. Safe: the run stops. -/
  | notModelled (mnemonic : String)
  deriving DecidableEq, Repr

/-- The state right after reset (10_state.md R21, 70_reset_and_hazards.md R180): every slot `EMPTY`, `STATUS` zero, no
response. Nothing is presented yet (log entry 1), the command port reads zero (log entry 3) and the parameters have their
defaults (log entry 4). -/
def State.reset : State where
  slots := Vector.replicate 4 .empty
  status := ⟨.ok, false⟩
  port := Command.ofWord 0
  rsp := none
  stream := []
  cfg := Config.default

end Sys2Proof.Machine
end

