-- ==== Sys2Proof/Machine/Flags.lean ====
section
/-! DEFINITION. Every flag computation of the spec: the identifier word's flag bits and masks (00_scope.md R1, R4,
30_encoding.md R50), the FD flags byte (R52), the status codes (60_exceptions.md R161) and the `STATUS` word (10_state.md
R15, R16). -/

namespace Sys2Proof.Machine

/-- `EFF_FLAG`, bit 31 (00_scope.md R1). -/
def effFlag : Word := 0x80000000#32

/-- `RTR_FLAG`, bit 30 (00_scope.md R1). -/
def rtrFlag : Word := 0x40000000#32

/-- `ERR_FLAG`, bit 29 (00_scope.md R1). -/
def errFlag : Word := 0x20000000#32

/-- `SFF_MASK`, the standard 11-bit identifier mask (00_scope.md R1). -/
def sffMask : Word := 0x000007FF#32

/-- `EFF_MASK`, the extended 29-bit identifier mask (00_scope.md R1). -/
def effMask : Word := 0x1FFFFFFF#32

/-- `CLASSIC_MAX`, the classic payload ceiling in bytes (00_scope.md R1). -/
def classicMax : Nat := 8

/-- `FD_MAX`, the FD payload ceiling in bytes (00_scope.md R1). -/
def fdMax : Nat := 64

/-- `is_ext` (00_scope.md R4). -/
def isExt (w : Word) : Bool := w &&& effFlag != 0

/-- `is_rtr` (00_scope.md R4). -/
def isRtr (w : Word) : Bool := w &&& rtrFlag != 0

/-- `is_err` (00_scope.md R4). -/
def isErr (w : Word) : Bool := w &&& errFlag != 0

/-- `raw_id`: the 29-bit numeric id, zero-extended (00_scope.md R4). -/
def rawId (w : Word) : Word := w &&& effMask

/-- `bool(b)`: 1 when true, 0 when false, as a 32-bit value (00_scope.md R3). -/
def boolWord (b : Bool) : Word := if b then 1 else 0

/-- The three flags of an identifier word in the bit positions of the same flags of the command word
(40_identifier_codec.md R74). -/
def flagsWord (w : Word) : Word :=
  boolWord (isExt w) ||| boolWord (isRtr w) <<< 1 ||| boolWord (isErr w) <<< 2

/-- The identifier word with `RTR_FLAG` cleared and every other bit verbatim (44_union_conversions.md R121, R122). -/
def dropRtr (w : Word) : Word := w &&& ~~~rtrFlag

/-- Set or clear the bits of a mask in the FD flags byte, every other bit kept (42_fd_frame.md R93, R94). -/
def putMask (flags mask : Byte) (on : Bool) : Byte := if on then flags ||| mask else flags &&& ~~~mask

/-- Whether a flag of the FD flags byte is set (42_fd_frame.md R95, R96). -/
def hasMask (flags mask : Byte) : Bool := flags &&& mask != 0

/-- The flags byte of a newly constructed FD frame: both flags OR-ed in, the other bits zero (42_fd_frame.md R91). -/
def newFlags (cfg : Config) (brs esi : Bool) : Byte :=
  (if brs then cfg.brsMask else 0) ||| (if esi then cfg.esiMask else 0)

/-- The code number of a status (60_exceptions.md R161). -/
def StatusCode.code : StatusCode → BitVec 4
  | .ok => 0#4
  | .idTooLarge => 1#4
  | .tooMuchData => 2#4
  | .notConstructible => 3#4
  | .decodeFail => 4#4
  | .eKind => 8#4
  | .eIllegal => 9#4
  | .eFormat => 10#4

/-- The `STATUS` register as a byte: bits 7:5 hardwired zero, `STICKY` in bit 4, `LAST` in bits 3:0 (10_state.md R15). -/
def Status.word (st : Status) : Byte := (0#3 ++ BitVec.ofBool st.sticky) ++ st.last.code

/-- `STATUS` cleared: the reset value and the effect of `CLRST` (10_state.md R15, R21). -/
def Status.clear : Status := ⟨.ok, false⟩

/-- `STATUS` after a command other than `NOP`, `RDST`, `CLRST` completes with a code (10_state.md R16). -/
def Status.record (st : Status) (c : StatusCode) : Status := ⟨c, st.sticky || c != .ok⟩

end Sys2Proof.Machine
end

