-- ==== Sys2Proof/Machine/Operands.lean ====
section
/-! DEFINITION. Every operand form of the spec: packing and the semantic identifier (00_scope.md R4), the payload operand
and the image operand on `DIN` (30_encoding.md R56), zero-filled payload buffers (41_classic_frame.md R81). -/

namespace Sys2Proof.Machine

/-- `pack_id` (00_scope.md R4); `none` is `IDTooLarge`. The range check comes before any flag is looked at, and an id above
the standard range is extended whatever `ext` says (40_identifier_codec.md R71). -/
def packId (id : Word) (ext rtr err : Bool) : Option Word :=
  if effMask < id then none
  else some (id ||| (if ext || decide (sffMask < id) then effFlag else 0) |||
    (if rtr then rtrFlag else 0) ||| (if err then errFlag else 0))

/-- The semantic identifier: a standard (11-bit) or an extended (29-bit) identifier (00_scope.md R4). -/
inductive SemId where
  | standard (id : BitVec 11)
  | extended (id : BitVec 29)
  deriving DecidableEq, Repr

/-- `sem_id` (00_scope.md R4). -/
def semId (w : Word) : SemId :=
  if isExt w then .extended ((w &&& effMask).setWidth 29) else .standard ((w &&& sffMask).setWidth 11)

/-- The semantic identifier at the port: the variant in bit 31, the value in bits 28:0 (40_identifier_codec.md R73). -/
def SemId.toWord : SemId → Word
  | .standard id => id.setWidth 32
  | .extended id => effFlag ||| id.setWidth 32

/-- `DIN[k]`. `DIN` has 72 bytes (10_state.md R17); a well-formed parameter set reads none beyond (log entry 4). -/
def Command.dinByte (c : Command) (k : Nat) : Byte := c.din[k]?.getD 0

/-- A payload buffer of `n` bytes whose first `len` bytes are `f` and whose other bytes are zero (41_classic_frame.md R81,
42_fd_frame.md R91: 'zero-filling the rest'). -/
def zeroFilled (n len : Nat) (f : Nat → Byte) : Vector Byte n :=
  Vector.ofFn fun k => if k.val < len then f k.val else 0

/-- A payload buffer of `n` bytes filled from `f` whole (45_raw_image.md R132, R133). -/
def filled (n : Nat) (f : Nat → Byte) : Vector Byte n := Vector.ofFn fun k => f k.val

/-- Payload buffer byte `k`, zero beyond the buffer (44_union_conversions.md R121: the buffer zero-extended). -/
def bufByte {n : Nat} (data : Vector Byte n) (k : Nat) : Byte := data[k]?.getD 0

end Sys2Proof.Machine
end

