-- ==== Sys2Proof/Machine/Ops.lean ====
section
/-! DEFINITION. The named operations over the state: reading and writing slots, the views of a slot, completing a command
(60_exceptions.md R160, R163, with the `STATUS` update of 10_state.md R16), the slot-tag checks (R162 step 2), and taking
the host's next event. The block has no exception entry and no return (R167): `fail` is what a failing command does. -/

namespace Sys2Proof.Machine

/-- `F[i]` read (10_state.md R10). -/
def State.slot (s : State) (i : SlotNo) : Slot := s.slots[i]

/-- `F[i] <- v`, the whole slot at once (10_state.md R10). -/
def State.setSlot (s : State) (i : SlotNo) (v : Slot) : State := { s with slots := s.slots.set i v }

/-- The fields every accessor of the capability contract reads, the same pair for both kinds (43_frame_contract.md R111). -/
structure Header where
  idw : Word
  len : Byte
  deriving DecidableEq, Repr

/-- The pair (`idw`, `len`) of a non-empty slot (43_frame_contract.md R111). -/
def Slot.header : Slot → Option Header
  | .empty => none
  | .classic f => some ⟨f.idw, f.len⟩
  | .fd f => some ⟨f.idw, f.len⟩

/-- The tag code of a slot (10_state.md R11, 43_frame_contract.md R110). -/
def Slot.tagCode : Slot → Word
  | .empty => 0
  | .classic _ => 1
  | .fd _ => 2

/-- The meaningful payload: exactly the first `len` bytes of the buffer (43_frame_contract.md R109). -/
def Slot.payload : Slot → List Byte
  | .empty => []
  | .classic f => f.data.toList.take f.len.toNat
  | .fd f => f.data.toList.take f.len.toNat

/-- Semantic equality of two slot values (10_state.md R24, 44_union_conversions.md R125): same tag, identifier word, length,
meaningful payload bytes and, for FD, flags byte. -/
def Slot.semEq : Slot → Slot → Bool
  | .classic a, .classic b =>
    a.idw == b.idw && a.len == b.len &&
      (List.range a.len.toNat).all fun k => bufByte a.data k == bufByte b.data k
  | .fd a, .fd b =>
    a.idw == b.idw && a.len == b.len &&
      ((List.range a.len.toNat).all fun k => bufByte a.data k == bufByte b.data k) && a.flags == b.flags
  | _, _ => false

/-- `RSP.BLEN` (10_state.md R18). -/
def Response.blen (r : Response) : Byte := BitVec.ofNat 8 r.bytes.length

/-- Put a response on the response port, `STATUS` untouched (47_system.md R150). -/
def State.respond (s : State) (st : StatusCode) (val : Word) (bytes : List Byte) : State :=
  { s with rsp := some ⟨st, val, bytes⟩ }

/-- Complete a command other than `NOP`, `RDST`, `CLRST`: record the code in `STATUS` (10_state.md R16) and respond. -/
def State.complete (s : State) (st : StatusCode) (val : Word) (bytes : List Byte) : State :=
  { s with status := s.status.record st, rsp := some ⟨st, val, bytes⟩ }

/-- `complete(OK, val, bytes)` (00_scope.md R3). -/
def State.ok (s : State) (val : Word) (bytes : List Byte) : Host.Outcome State Fault Refusal :=
  .next (s.complete .ok val bytes)

/-- `complete(code)` with a code other than `OK`: no slot written, `RSP.VAL = 0`, no bytes (60_exceptions.md R163). -/
def State.fail (s : State) (c : StatusCode) : Host.Outcome State Fault Refusal :=
  .next (s.complete c 0 [])

/-- `F[fd] <- v; complete(OK)`. -/
def State.okWrite (s : State) (fd : SlotNo) (v : Slot) : Host.Outcome State Fault Refusal :=
  .next ((s.setSlot fd v).complete .ok 0 [])

/-- `complete(OK, length(bytes), bytes)` (45_raw_image.md R131, 46_text_rendering.md R141). -/
def State.okBytes (s : State) (bytes : List Byte) : Host.Outcome State Fault Refusal :=
  s.ok (BitVec.ofNat 32 bytes.length) bytes

/-- The tag check of a command that accepts a frame of either kind and reads (`idw`, `len`) (60_exceptions.md R162). -/
def State.withHeader (s : State) (fs : SlotNo) (k : Header → Host.Outcome State Fault Refusal) :
    Host.Outcome State Fault Refusal :=
  match (s.slot fs).header with
  | none => s.fail .eKind
  | some h => k h

/-- The tag check of a command that accepts any slot value but `EMPTY` (60_exceptions.md R162). -/
def State.withFrame (s : State) (fs : SlotNo) (k : Slot → Host.Outcome State Fault Refusal) :
    Host.Outcome State Fault Refusal :=
  match s.slot fs with
  | .empty => s.fail .eKind
  | .classic f => k (.classic f)
  | .fd f => k (.fd f)

/-- The tag check of a command that accepts a `CLASSIC` slot only (60_exceptions.md R162). -/
def State.withClassic (s : State) (fs : SlotNo) (k : ClassicFrame → Host.Outcome State Fault Refusal) :
    Host.Outcome State Fault Refusal :=
  match s.slot fs with
  | .empty => s.fail .eKind
  | .classic f => k f
  | .fd _ => s.fail .eKind

/-- The tag check of a command that accepts an `FD` slot only (60_exceptions.md R162). -/
def State.withFd (s : State) (fs : SlotNo) (k : FdFrame → Host.Outcome State Fault Refusal) :
    Host.Outcome State Fault Refusal :=
  match s.slot fs with
  | .empty => s.fail .eKind
  | .classic _ => s.fail .eKind
  | .fd f => k f

/-- The checks of a constructor in their order, payload length and then identifier range (41_classic_frame.md R80,
60_exceptions.md R162), and the slot it writes when both pass. -/
def State.construct (s : State) (fd : SlotNo) (ceiling : Nat) (ext rtr err : Bool) (build : Word → Slot) :
    Host.Outcome State Fault Refusal :=
  if ceiling < s.port.dlen.toNat then s.fail .tooMuchData
  else
    match packId s.port.arg ext rtr err with
    | none => s.fail .idTooLarge
    | some w => s.okWrite fd (build w)

/-- What the block takes from the host next. -/
inductive Taken where
  /-- Nothing is presented: the block waits. -/
  | idle
  /-- The reset input was asserted and released: the state after it. -/
  | wasReset (s : State)
  /-- A command was presented: its word, and the state with its fields on the command port. -/
  | command (w : Word) (s : State)

/-- Reset (70_reset_and_hazards.md R180): nothing survives it but the parameters, which are no state (00_scope.md R7), and
the host's own events still to come. -/
def State.applyReset (s : State) (rest : List HostEvent) : State :=
  { State.reset with cfg := s.cfg, stream := rest }

/-- Sample the command port (10_state.md R17). -/
def State.present (s : State) (c : Command) (rest : List HostEvent) : State :=
  { s with port := c, stream := rest }

/-- Take the host's next event (20_memory.md R38: one at a time, in presentation order; R41: used once, not retained). -/
def State.take (s : State) : Taken :=
  match s.stream with
  | [] => .idle
  | .reset :: rest => .wasReset (s.applyReset rest)
  | .command c :: rest => .command c.cw (s.present c rest)

/-- An illegal command word: `E_ILLEGAL`, no slot read or written, `STATUS` updated (30_encoding.md R58, 10_state.md R16). -/
def State.illegal (s : State) : Host.Outcome State Fault Refusal := s.fail .eIllegal

/-- The host's stream with a command word put first, every operand field zero. -/
def State.pushWord (s : State) (w : Word) : State :=
  { s with stream := .command (Command.ofWord w) :: s.stream }

end Sys2Proof.Machine
end

