-- ==== Sys2Proof/Machine/Classic.lean ====
section
/-! DEFINITION. Classic frame construction: `CNEW`, `CRTR` (41_classic_frame.md R80 to R82). -/

namespace Sys2Proof.Machine

/-- `CNEW` (41_classic_frame.md R81). `DIN[k]` for `k` at or beyond `DLEN` is not read. -/
def execCnew (fd : SlotNo) (err rtr ext : Bool) (s : State) : Host.Outcome State Fault Refusal :=
  s.construct fd classicMax ext rtr err fun w =>
    .classic ⟨w, s.port.dlen, zeroFilled 8 s.port.dlen.toNat s.port.dinByte⟩

/-- `CRTR` (41_classic_frame.md R82): the remote flag set, the requested length kept, an all-zero payload. The requested
length is the reading the source asks for (93_implementation_defined.md U2); it stands here alone. -/
def execCrtr (fd : SlotNo) (s : State) : Host.Outcome State Fault Refusal :=
  s.construct fd classicMax false true false fun w => .classic ⟨w, s.port.dlen, zeroFilled 8 0 s.port.dinByte⟩

end Sys2Proof.Machine
end

