-- ==== Sys2Proof/Machine/Codec.lean ====
section
/-! DEFINITION. The identifier codec commands `IDPACK`, `IDRAW`, `IDSEM`, `IDFLG` (40_identifier_codec.md R70 to R74). -/

namespace Sys2Proof.Machine

/-- `IDPACK` (40_identifier_codec.md R71). -/
def execIdpack (err rtr ext : Bool) (s : State) : Host.Outcome State Fault Refusal :=
  match packId s.port.arg ext rtr err with
  | none => s.fail .idTooLarge
  | some w => s.ok w []

/-- `IDRAW` (40_identifier_codec.md R72). -/
def execIdraw (s : State) : Host.Outcome State Fault Refusal := s.ok (rawId s.port.arg) []

/-- `IDSEM` (40_identifier_codec.md R73). -/
def execIdsem (s : State) : Host.Outcome State Fault Refusal := s.ok (semId s.port.arg).toWord []

/-- `IDFLG` (40_identifier_codec.md R74). -/
def execIdflg (s : State) : Host.Outcome State Fault Refusal := s.ok (flagsWord s.port.arg) []

end Sys2Proof.Machine
end

