-- ==== Sys2Proof/Machine/Image.lean ====
section
/-! DEFINITION. Frame images: layout (20_memory.md R30, R31), byte order (R32), padding (R33), and the functions `image`,
`word_bytes` and `word_of` of 45_raw_image.md R130. -/

namespace Sys2Proof.Machine

/-- `word_bytes(w)` (45_raw_image.md R130, 20_memory.md R32). -/
def wordBytes (e : Endian) (w : Word) : List Byte :=
  match e with
  | .little => [w.extractLsb' 0 8, w.extractLsb' 8 8, w.extractLsb' 16 8, w.extractLsb' 24 8]
  | .big => [w.extractLsb' 24 8, w.extractLsb' 16 8, w.extractLsb' 8 8, w.extractLsb' 0 8]

/-- `word_of(b0, b1, b2, b3)`, the inverse of `word_bytes` (45_raw_image.md R130). -/
def wordOf (e : Endian) (b0 b1 b2 b3 : Byte) : Word :=
  match e with
  | .little => ((b3 ++ b2) ++ b1) ++ b0
  | .big => ((b0 ++ b1) ++ b2) ++ b3

/-- Padding bytes, written as zero (20_memory.md R33). -/
def padding (n : Nat) : List Byte := List.replicate n 0

/-- `image(CLASSIC s)` (45_raw_image.md R130): word, length, padding up to the data offset, the whole buffer, and padding
up to the image size. -/
def classicImage (cfg : Config) (f : ClassicFrame) : List Byte :=
  wordBytes cfg.imageEndian f.idw ++ [f.len] ++ padding (cfg.classicDataOffset - 5) ++ f.data.toList ++
    padding (cfg.classicImageSize - (cfg.classicDataOffset + 8))

/-- `image(FD s)` (45_raw_image.md R130): word, length, flags, padding up to the data offset, the whole buffer, and padding
up to the image size. -/
def fdImage (cfg : Config) (f : FdFrame) : List Byte :=
  wordBytes cfg.imageEndian f.idw ++ [f.len] ++ [f.flags] ++ padding (cfg.fdDataOffset - 6) ++ f.data.toList ++
    padding (cfg.fdImageSize - (cfg.fdDataOffset + 64))

/-- `image(s)` of a slot value; an `EMPTY` slot has none (45_raw_image.md R130). -/
def Slot.image (cfg : Config) : Slot → List Byte
  | .empty => []
  | .classic f => classicImage cfg f
  | .fd f => fdImage cfg f

/-- The identifier word of the image on `DIN`, bytes 0 to 3 (45_raw_image.md R132, R133). -/
def Command.imageWord (e : Endian) (c : Command) : Word :=
  wordOf e (c.dinByte 0) (c.dinByte 1) (c.dinByte 2) (c.dinByte 3)

/-- The length byte of the image on `DIN`, byte 4. -/
def Command.imageLen (c : Command) : Byte := c.dinByte 4

/-- The classic frame of the image on `DIN`: every field as given, padding ignored (45_raw_image.md R132). -/
def Command.classicOfImage (cfg : Config) (c : Command) : ClassicFrame where
  idw := c.imageWord cfg.imageEndian
  len := c.imageLen
  data := filled 8 fun k => c.dinByte (cfg.classicDataOffset + k)

/-- The FD frame of the image on `DIN`: every field as given, padding ignored (45_raw_image.md R133). -/
def Command.fdOfImage (cfg : Config) (c : Command) : FdFrame where
  idw := c.imageWord cfg.imageEndian
  len := c.imageLen
  flags := c.dinByte 5
  data := filled 64 fun k => c.dinByte (cfg.fdDataOffset + k)

end Sys2Proof.Machine
end

