-- ==== Sys2Proof/Machine/Contract.lean ====
section
/-! DEFINITION. The frame capability contract: `GIDW`, `GRAW`, `GSID`, `GLEN`, `GERRW`, `GISERR`, `GISEXT`, `GISRTR`,
`GDATA`, `GKIND`, `DECERR` (43_frame_contract.md R100 to R112). The formulas of R101 to R107 are over (`idw`, `len`), so
they are the same for both kinds (R111). -/

namespace Sys2Proof.Machine

/-- `GIDW` (43_frame_contract.md R101). -/
def execGidw (fs : SlotNo) (s : State) : Host.Outcome State Fault Refusal :=
  s.withHeader fs fun h => s.ok h.idw []

/-- `GRAW` (43_frame_contract.md R102). -/
def execGraw (fs : SlotNo) (s : State) : Host.Outcome State Fault Refusal :=
  s.withHeader fs fun h => s.ok (rawId h.idw) []

/-- `GSID` (43_frame_contract.md R103). -/
def execGsid (fs : SlotNo) (s : State) : Host.Outcome State Fault Refusal :=
  s.withHeader fs fun h => s.ok (semId h.idw).toWord []

/-- `GLEN` (43_frame_contract.md R104). -/
def execGlen (fs : SlotNo) (s : State) : Host.Outcome State Fault Refusal :=
  s.withHeader fs fun h => s.ok (h.len.setWidth 32) []

/-- `GERRW` (43_frame_contract.md R105): `err_word`, with the mask of the parameter `ERR_MASK` (00_scope.md R4). -/
def execGerrw (fs : SlotNo) (s : State) : Host.Outcome State Fault Refusal :=
  s.withHeader fs fun h => s.ok (h.idw &&& s.cfg.errMask) []

/-- `GISERR` (43_frame_contract.md R106). -/
def execGiserr (fs : SlotNo) (s : State) : Host.Outcome State Fault Refusal :=
  s.withHeader fs fun h => s.ok (boolWord (isErr h.idw)) []

/-- `GISEXT` (43_frame_contract.md R107). -/
def execGisext (fs : SlotNo) (s : State) : Host.Outcome State Fault Refusal :=
  s.withHeader fs fun h => s.ok (boolWord (isExt h.idw)) []

/-- `GISRTR` on a frame: the constant 0 for FD, bit 30 for classic (43_frame_contract.md R108). -/
def Slot.remote : Slot → Bool
  | .empty => false
  | .classic f => isRtr f.idw
  | .fd _ => false

/-- `GISRTR` (43_frame_contract.md R108). -/
def execGisrtr (fs : SlotNo) (s : State) : Host.Outcome State Fault Refusal :=
  s.withFrame fs fun v => s.ok (boolWord v.remote) []

/-- `GDATA` (43_frame_contract.md R109): `RSP.VAL` repeats the length. -/
def execGdata (fs : SlotNo) (s : State) : Host.Outcome State Fault Refusal :=
  s.withHeader fs fun h => s.ok (h.len.setWidth 32) (s.slot fs).payload

/-- `GKIND` (43_frame_contract.md R110): the one slot-reading command that accepts an `EMPTY` slot. -/
def execGkind (fs : SlotNo) (s : State) : Host.Outcome State Fault Refusal := s.ok (s.slot fs).tagCode []

/-- `DECERR` with a given collaborator (43_frame_contract.md R112): the frame's image is handed over, whatever `ERR_FLAG`
is, and the answer comes back. -/
def decerrWith (collaborator : Word → List Byte → Option Word) (fs : SlotNo) (s : State) :
    Host.Outcome State Fault Refusal :=
  s.withFrame fs fun v =>
    match collaborator v.tagCode (v.image s.cfg) with
    | some d => s.ok d []
    | none => s.fail .decodeFail

/-- `DECERR` (43_frame_contract.md R112), with the parameter `ERR_DECODE`. -/
def execDecerr (fs : SlotNo) (s : State) : Host.Outcome State Fault Refusal := decerrWith Config.errDecode fs s

end Sys2Proof.Machine
end

