-- ==== Sys2Proof/Machine/Fd.lean ====
section
/-! DEFINITION. FD frame construction and flags: `FNEW`, `FRTR`, `FSBRS`, `FSESI`, `FGBRS`, `FGESI`, `FGFLG`
(42_fd_frame.md R90 to R97). -/

namespace Sys2Proof.Machine

/-- `FNEW` (42_fd_frame.md R91): ceiling 64, the remote flag never set, both flag bits OR-ed in. -/
def execFnew (fd : SlotNo) (esi brs err ext : Bool) (s : State) : Host.Outcome State Fault Refusal :=
  s.construct fd fdMax ext false err fun w =>
    .fd ⟨w, s.port.dlen, newFlags s.cfg brs esi, zeroFilled 64 s.port.dlen.toNat s.port.dinByte⟩

/-- `FRTR` (42_fd_frame.md R92): never builds a frame, whatever the operands. -/
def execFrtr (_fd : SlotNo) (s : State) : Host.Outcome State Fault Refusal := s.fail .notConstructible

/-- `FSBRS` (42_fd_frame.md R93). -/
def execFsbrs (fs : SlotNo) (on : Bool) (s : State) : Host.Outcome State Fault Refusal :=
  s.withFd fs fun f => s.okWrite fs (.fd { f with flags := putMask f.flags s.cfg.brsMask on })

/-- `FSESI` (42_fd_frame.md R94). -/
def execFsesi (fs : SlotNo) (on : Bool) (s : State) : Host.Outcome State Fault Refusal :=
  s.withFd fs fun f => s.okWrite fs (.fd { f with flags := putMask f.flags s.cfg.esiMask on })

/-- `FGBRS` (42_fd_frame.md R95). -/
def execFgbrs (fs : SlotNo) (s : State) : Host.Outcome State Fault Refusal :=
  s.withFd fs fun f => s.ok (boolWord (hasMask f.flags s.cfg.brsMask)) []

/-- `FGESI` (42_fd_frame.md R96). -/
def execFgesi (fs : SlotNo) (s : State) : Host.Outcome State Fault Refusal :=
  s.withFd fs fun f => s.ok (boolWord (hasMask f.flags s.cfg.esiMask)) []

/-- `FGFLG` (42_fd_frame.md R97). -/
def execFgflg (fs : SlotNo) (s : State) : Host.Outcome State Fault Refusal :=
  s.withFd fs fun f => s.ok (f.flags.setWidth 32) []

end Sys2Proof.Machine
end

