-- ==== Sys2Proof/Machine/RawImage.lean ====
section
/-! DEFINITION. Raw image serialise and deserialise: `SER`, `DESC`, `DESF` (45_raw_image.md R130 to R133). -/

namespace Sys2Proof.Machine

/-- `SER` (45_raw_image.md R131). -/
def execSer (fs : SlotNo) (s : State) : Host.Outcome State Fault Refusal :=
  s.withFrame fs fun v => s.okBytes (v.image s.cfg)

/-- `DESC` (45_raw_image.md R132): the length check alone; the word is stored as given. -/
def execDesc (fd : SlotNo) (s : State) : Host.Outcome State Fault Refusal :=
  if classicMax < s.port.imageLen.toNat then s.fail .tooMuchData
  else s.okWrite fd (.classic (s.port.classicOfImage s.cfg))

/-- `DESF` (45_raw_image.md R133): the length check, then the remote bit refused with `E_FORMAT`. -/
def execDesf (fd : SlotNo) (s : State) : Host.Outcome State Fault Refusal :=
  if fdMax < s.port.imageLen.toNat then s.fail .tooMuchData
  else if isRtr (s.port.imageWord s.cfg.imageEndian) then s.fail .eFormat
  else s.okWrite fd (.fd (s.port.fdOfImage s.cfg))

end Sys2Proof.Machine
end

