-- ==== Sys2Proof/Machine/Text.lean ====
section
/-! DEFINITION. The canonical text of a frame as ASCII bytes (46_text_rendering.md R140, R141), with the digit functions
`hexU`, `hex2U` and `dec` of 00_scope.md R3. -/

namespace Sys2Proof.Machine

/-- One uppercase hexadecimal digit: `0` to `9` are 0x30 to 0x39, `A` to `F` are 0x41 to 0x46 (46_text_rendering.md R140). -/
def hexDigit (n : BitVec 4) : Byte :=
  if n.toNat < 10 then 0x30#8 + n.setWidth 8 else 0x37#8 + n.setWidth 8

/-- Digits without their leading zeros, a single `0` when nothing else is left (00_scope.md R3). -/
def trimDigits (ds : List Byte) : List Byte :=
  match ds.dropWhile (· == 0x30#8) with
  | [] => [0x30#8]
  | d :: rest => d :: rest

/-- The eight hexadecimal digits of a word, the most significant first. -/
def hexDigits8 (w : Word) : List Byte :=
  [w.extractLsb' 28 4, w.extractLsb' 24 4, w.extractLsb' 20 4, w.extractLsb' 16 4,
   w.extractLsb' 12 4, w.extractLsb' 8 4, w.extractLsb' 4 4, w.extractLsb' 0 4].map hexDigit

/-- `hexU(v)`: uppercase hexadecimal, no prefix, no leading zeros, `0` for zero (00_scope.md R3). -/
def hexU (w : Word) : List Byte := trimDigits (hexDigits8 w)

/-- `hex2U(b)`: exactly two uppercase hexadecimal digits, the high nibble first (00_scope.md R3). -/
def hex2U (b : Byte) : List Byte := [hexDigit (b.extractLsb' 4 4), hexDigit (b.extractLsb' 0 4)]

/-- `dec(v)` of a byte: decimal digits, no leading zeros, `0` for zero (00_scope.md R3). -/
def decByte (b : Byte) : List Byte :=
  trimDigits ([b.toNat / 100, b.toNat / 10 % 10, b.toNat % 10].map fun d => 0x30#8 + BitVec.ofNat 8 d)

/-- `sep` (46_text_rendering.md R141): one space, or nothing. -/
def sepBytes : RenderSep → List Byte
  | .space => [0x20#8]
  | .none => []

/-- `join(sep, [hex2U(b), ...])` over the meaningful payload bytes (46_text_rendering.md R141). -/
def payloadText (sep : RenderSep) (bytes : List Byte) : List Byte :=
  List.intercalate (sepBytes sep) (bytes.map hex2U)

/-- The text of a slot value (46_text_rendering.md R141); an `EMPTY` slot has none. -/
def Slot.text (sep : RenderSep) (v : Slot) : List Byte :=
  match v with
  | .empty => []
  | .classic f => hexU f.idw ++ [0x23#8] ++ payloadText sep v.payload
  | .fd f => hexU f.idw ++ [0x23#8, 0x23#8] ++ decByte f.flags ++ [0x20#8] ++ payloadText sep v.payload

end Sys2Proof.Machine
end

