-- ==== Sys2Proof/Machine/Render.lean ====
section
/-! DEFINITION. Canonical text rendering: `REND` (46_text_rendering.md R140, R141). -/

namespace Sys2Proof.Machine

/-- `REND` (46_text_rendering.md R141). -/
def execRend (fs : SlotNo) (s : State) : Host.Outcome State Fault Refusal :=
  s.withFrame fs fun v => s.okBytes (v.text s.cfg.renderSep)

end Sys2Proof.Machine
end

