-- ==== Sys2Proof/Machine/System.lean ====
section
/-! DEFINITION. The system commands `NOP`, `RDST`, `CLRST` (47_system.md R150 to R153). -/

namespace Sys2Proof.Machine

/-- `NOP` (47_system.md R151): completes `OK`, `STATUS` unchanged. -/
def execNop (s : State) : Host.Outcome State Fault Refusal := .next (s.respond .ok 0 [])

/-- `RDST` (47_system.md R152): returns `STATUS` zero-extended, `STATUS` unchanged. -/
def execRdst (s : State) : Host.Outcome State Fault Refusal :=
  .next (s.respond .ok (s.status.word.setWidth 32) [])

/-- `CLRST` (47_system.md R153): clears `STATUS`, slots untouched. -/
def execClrst (s : State) : Host.Outcome State Fault Refusal :=
  .next ({ s with status := Status.clear }.respond .ok 0 [])

end Sys2Proof.Machine
end

