-- ==== Sys2Proof/Machine/Union.lean ====
section
/-! DEFINITION. The frame union and the kind conversions: `WIDEN`, `NARROW`, `FMOV`, `FCLR`, `FEQ`
(44_union_conversions.md R120 to R125). The source slot is read in full before the destination is written, so `fd = fs` is
allowed (R120). -/

namespace Sys2Proof.Machine

/-- The widening of a classic frame (44_union_conversions.md R121): `RTR_FLAG` dropped, all eight buffer bytes kept, flags
cleared. -/
def ClassicFrame.widen (c : ClassicFrame) : FdFrame where
  idw := dropRtr c.idw
  len := c.len
  flags := 0
  data := filled 64 (bufByte c.data)

/-- The narrowing of an FD frame of at most 8 bytes (44_union_conversions.md R122): `RTR_FLAG` forced false, flags dropped,
the buffer zero-filled beyond `len`, the word not re-packed. -/
def FdFrame.narrow (f : FdFrame) : ClassicFrame where
  idw := dropRtr f.idw
  len := f.len
  data := zeroFilled 8 f.len.toNat (bufByte f.data)

/-- `WIDEN` (44_union_conversions.md R121). -/
def execWiden (fd fs : SlotNo) (s : State) : Host.Outcome State Fault Refusal :=
  s.withClassic fs fun c => s.okWrite fd (.fd c.widen)

/-- `NARROW` (44_union_conversions.md R122). -/
def execNarrow (fd fs : SlotNo) (s : State) : Host.Outcome State Fault Refusal :=
  s.withFd fs fun f =>
    if classicMax < f.len.toNat then s.fail .tooMuchData else s.okWrite fd (.classic f.narrow)

/-- `FMOV` (44_union_conversions.md R123). -/
def execFmov (fd fs : SlotNo) (s : State) : Host.Outcome State Fault Refusal :=
  s.withFrame fs fun v => s.okWrite fd v

/-- `FCLR` (44_union_conversions.md R124). -/
def execFclr (fd : SlotNo) (s : State) : Host.Outcome State Fault Refusal := s.okWrite fd .empty

/-- `FEQ` (44_union_conversions.md R125): the tag of `fs` is checked first, then the tag of `ft` (60_exceptions.md R162). -/
def execFeq (fs ft : SlotNo) (s : State) : Host.Outcome State Fault Refusal :=
  s.withFrame fs fun a => s.withFrame ft fun b => s.ok (boolWord (a.semEq b)) []

end Sys2Proof.Machine
end

