-- ==== Sys2Proof/Machine/Dispatch.lean ====
section
/-! DEFINITION. exec: one arm per command, each one direct call of its meaning. -/

namespace Sys2Proof.Machine

def exec (i : Instr) (s : State) : Host.Outcome State Fault Refusal :=
  match i with
  | .nop => Sys2Proof.Machine.execNop s
  | .rdst => Sys2Proof.Machine.execRdst s
  | .clrst => Sys2Proof.Machine.execClrst s
  | .idpack err rtr ext => Sys2Proof.Machine.execIdpack err rtr ext s
  | .idraw => Sys2Proof.Machine.execIdraw s
  | .idsem => Sys2Proof.Machine.execIdsem s
  | .idflg => Sys2Proof.Machine.execIdflg s
  | .cnew fd err rtr ext => Sys2Proof.Machine.execCnew fd err rtr ext s
  | .crtr fd => Sys2Proof.Machine.execCrtr fd s
  | .fnew fd esi brs err ext => Sys2Proof.Machine.execFnew fd esi brs err ext s
  | .frtr fd => Sys2Proof.Machine.execFrtr fd s
  | .fsbrs fs on => Sys2Proof.Machine.execFsbrs fs on s
  | .fsesi fs on => Sys2Proof.Machine.execFsesi fs on s
  | .fgbrs fs => Sys2Proof.Machine.execFgbrs fs s
  | .fgesi fs => Sys2Proof.Machine.execFgesi fs s
  | .fgflg fs => Sys2Proof.Machine.execFgflg fs s
  | .gidw fs => Sys2Proof.Machine.execGidw fs s
  | .graw fs => Sys2Proof.Machine.execGraw fs s
  | .gsid fs => Sys2Proof.Machine.execGsid fs s
  | .glen fs => Sys2Proof.Machine.execGlen fs s
  | .gerrw fs => Sys2Proof.Machine.execGerrw fs s
  | .giserr fs => Sys2Proof.Machine.execGiserr fs s
  | .gisext fs => Sys2Proof.Machine.execGisext fs s
  | .gisrtr fs => Sys2Proof.Machine.execGisrtr fs s
  | .gdata fs => Sys2Proof.Machine.execGdata fs s
  | .gkind fs => Sys2Proof.Machine.execGkind fs s
  | .decerr fs => Sys2Proof.Machine.execDecerr fs s
  | .widen fd fs => Sys2Proof.Machine.execWiden fd fs s
  | .narrow fd fs => Sys2Proof.Machine.execNarrow fd fs s
  | .fmov fd fs => Sys2Proof.Machine.execFmov fd fs s
  | .fclr fd => Sys2Proof.Machine.execFclr fd s
  | .feq fs ft => Sys2Proof.Machine.execFeq fs ft s
  | .ser fs => Sys2Proof.Machine.execSer fs s
  | .desc fd => Sys2Proof.Machine.execDesc fd s
  | .desf fd => Sys2Proof.Machine.execDesf fd s
  | .rend fs => Sys2Proof.Machine.execRend fs s

end Sys2Proof.Machine
end

