-- ==== Sys2Proof/Machine/Step.lean ====
section
/-! DEFINITION. One step: take the host's next event; decode and execute a command, apply a reset, or wait. -/

namespace Sys2Proof.Machine

/-- One step (00_scope.md R6, 30_encoding.md R60, 60_exceptions.md R162 step 1). With nothing presented the block waits and
nothing changes (log entry 2). -/
def step (s : State) : Host.Outcome State Fault Refusal :=
  match s.take with
  | .idle => .next s
  | .wasReset t => .next t
  | .command w t =>
    match decode w with
    | .error _ => t.illegal
    | .ok i => exec i t

/-- The state with a table row's bits presented as the next command word, operand fields zero (log entry 1). -/
def State.withFetchWord (s : State) (nbits w : Nat) : State := s.pushWord (tableWord nbits w)

end Sys2Proof.Machine
end

