-- ==== Sys2Proof/Safety.lean ====
section
/-! DEFINITION. The terms in which claims about CANFC are stated: the invariants of a slot and of a state, what a command
answers, what a safe run is, and reference forms of the spec's tables and formulas, written apart from the definitions the
machine computes with. -/

namespace Sys2Proof.Safety

open Sys2Proof.Machine

/-! ## Invariants -/

/-- The slot invariants (a), (b), (c) of 10_state.md R12. -/
def slotWf : Slot → Bool
  | .empty => true
  | .classic f => decide (f.len.toNat ≤ 8)
  | .fd f => decide (f.len.toNat ≤ 64) && !f.idw.getLsbD 30

/-- Every buffer byte at or beyond `len` is zero (10_state.md R12 (d)). -/
def zeroTail : Slot → Prop
  | .empty => True
  | .classic f => ∀ k : Fin 8, f.len.toNat ≤ k.val → f.data[k] = 0
  | .fd f => ∀ k : Fin 64, f.len.toNat ≤ k.val → f.data[k] = 0

/-- Bits 11 to 28 of the identifier word are zero whenever `EFF_FLAG` is clear (10_state.md R12 (e), 30_encoding.md R51). -/
def packedWord (w : Word) : Prop := w.getLsbD 31 = false → w.extractLsb' 11 18 = 0

/-- A response has at most 205 bytes, and one that is not `OK` has neither value nor bytes (10_state.md R18). -/
def responseWf (r : Response) : Bool :=
  decide (r.bytes.length ≤ 205) && (r.st == .ok || (r.val == 0 && r.bytes.isEmpty))

/-- The invariant of the machine: well-formed parameters (00_scope.md R2), slots (10_state.md R12 (a) to (c)) and response
(10_state.md R18). -/
def Inv (s : State) : Prop :=
  s.cfg.wf = true ∧ (∀ k : SlotNo, slotWf (s.slot k) = true) ∧ ∀ r, s.rsp = some r → responseWf r = true

/-! ## What a command answers -/

/-- The response a step's outcome carries. -/
def responseOf : Host.Outcome State Fault Refusal → Option Response
  | .next t => t.rsp
  | .fault _ => none
  | .refused _ => none

/-- The outcome is a NEXT state in which the command has completed with a code, a value and bytes: the response is those,
`STATUS` is updated as 10_state.md R16 says, the four slots are as given, and nothing else has changed. What else there is
are fields whose form is the model's choice: the port that keeps what was sampled, the stream, the parameters (log entries
3, 1, 4). -/
def Answers (o : Host.Outcome State Fault Refusal) (s : State) (st : StatusCode) (val : Word) (bytes : List Byte)
    (slots : SlotNo → Slot) : Prop :=
  ∃ t, o = .next t ∧ t.rsp = some ⟨st, val, bytes⟩ ∧ t.status.last = st ∧
    t.status.sticky = (s.status.sticky || decide (st ≠ .ok)) ∧ (∀ k, t.slot k = slots k) ∧
    t.port = s.port ∧ t.stream = s.stream ∧ t.cfg = s.cfg

/-- The slots of a state with one of them replaced. -/
def slotsWith (s : State) (fd : SlotNo) (v : Slot) : SlotNo → Slot := fun k => if k = fd then v else s.slot k

/-- A run is safe in the sense of 60_exceptions.md R165 so far as a response shows: its code is one of the source's own
(below 8), not a refusal at the boundary. -/
def sourceDefined (r : Response) : Bool := decide (r.st.code.toNat < 8)

/-- The responses of up to `n` steps, in order, and the last state (00_scope.md R8: the observable result of a run). -/
def observe : Nat → State → List (Option Response) × State
  | 0, s => ([], s)
  | n + 1, s =>
    match step s with
    | .next t => ((t.rsp :: (observe n t).1), (observe n t).2)
    | .fault _ => ([], s)
    | .refused _ => ([], s)

/-- One command presented to a state that waits: the state after it, as a plain function (20_memory.md R38). -/
def runOne (s : State) (c : Command) : State :=
  match step { s with stream := [.command c] } with
  | .next t => t
  | .fault _ => s
  | .refused _ => s

/-! ## Reference forms of the spec's tables -/

/-- The opcode map and format masks as spec/opcode_table.json writes them, (mask, match) a row, in the table's order. -/
def tableRows : List (Word × Word) :=
  [(0xFFFFFFFF#32, 0x00000000#32), (0xFFFFFFFF#32, 0x01000000#32), (0xFFFFFFFF#32, 0x02000000#32),
   (0xFFFFFFF8#32, 0x10000000#32), (0xFFFFFFFF#32, 0x11000000#32), (0xFFFFFFFF#32, 0x12000000#32),
   (0xFFFFFFFF#32, 0x13000000#32), (0xFF3FFFF8#32, 0x20000000#32), (0xFF3FFFFF#32, 0x21000000#32),
   (0xFF3FFFE2#32, 0x30000000#32), (0xFF3FFFFF#32, 0x31000000#32), (0xFFCFFFFE#32, 0x32000000#32),
   (0xFFCFFFFE#32, 0x33000000#32), (0xFFCFFFFF#32, 0x34000000#32), (0xFFCFFFFF#32, 0x35000000#32),
   (0xFFCFFFFF#32, 0x36000000#32), (0xFFCFFFFF#32, 0x40000000#32), (0xFFCFFFFF#32, 0x41000000#32),
   (0xFFCFFFFF#32, 0x42000000#32), (0xFFCFFFFF#32, 0x43000000#32), (0xFFCFFFFF#32, 0x44000000#32),
   (0xFFCFFFFF#32, 0x45000000#32), (0xFFCFFFFF#32, 0x46000000#32), (0xFFCFFFFF#32, 0x47000000#32),
   (0xFFCFFFFF#32, 0x48000000#32), (0xFFCFFFFF#32, 0x49000000#32), (0xFFCFFFFF#32, 0x4A000000#32),
   (0xFF0FFFFF#32, 0x50000000#32), (0xFF0FFFFF#32, 0x51000000#32), (0xFF0FFFFF#32, 0x52000000#32),
   (0xFF3FFFFF#32, 0x53000000#32), (0xFFC3FFFF#32, 0x54000000#32), (0xFFCFFFFF#32, 0x60000000#32),
   (0xFF3FFFFF#32, 0x61000000#32), (0xFF3FFFFF#32, 0x62000000#32), (0xFFCFFFFF#32, 0x70000000#32)]

/-- A command word is an instance of some row of the table (30_encoding.md R55); a word that is none is illegal (R58). -/
def isLegalWord (w : Word) : Prop := ∃ row ∈ tableRows, w &&& row.1 = row.2

/-- The tags a command accepts in a slot it reads (10_state.md R13, the third column). -/
inductive TagReq where
  | classicOnly
  | fdOnly
  | anyFrame
  | anySlot
  deriving DecidableEq, Repr

/-- Whether a slot value has an accepted tag. -/
def TagReq.accepts : TagReq → Slot → Bool
  | .classicOnly, .classic _ => true
  | .fdOnly, .fd _ => true
  | .anyFrame, .classic _ => true
  | .anyFrame, .fd _ => true
  | .anySlot, _ => true
  | _, _ => false

/-- The slots a command reads, with the tags it accepts, in the order they are checked (10_state.md R13, 60_exceptions.md
R162 step 2). -/
def reads : Instr → List (SlotNo × TagReq)
  | .nop | .rdst | .clrst | .idpack _ _ _ | .idraw | .idsem | .idflg => []
  | .cnew _ _ _ _ | .crtr _ | .fnew _ _ _ _ _ | .frtr _ | .fclr _ | .desc _ | .desf _ => []
  | .fsbrs fs _ | .fsesi fs _ | .fgbrs fs | .fgesi fs | .fgflg fs | .narrow _ fs => [(fs, .fdOnly)]
  | .gidw fs | .graw fs | .gsid fs | .glen fs | .gerrw fs | .giserr fs | .gisext fs | .gisrtr fs | .gdata fs
  | .decerr fs | .ser fs | .rend fs | .fmov _ fs => [(fs, .anyFrame)]
  | .gkind fs => [(fs, .anySlot)]
  | .widen _ fs => [(fs, .classicOnly)]
  | .feq fs ft => [(fs, .anyFrame), (ft, .anyFrame)]

/-- The slot a command writes when it completes `OK` (10_state.md R13, the second column). -/
def writes : Instr → Option SlotNo
  | .cnew fd _ _ _ | .crtr fd | .fnew fd _ _ _ _ | .widen fd _ | .narrow fd _ | .fmov fd _ | .fclr fd | .desc fd
  | .desf fd => some fd
  | .fsbrs fs _ | .fsesi fs _ => some fs
  | .nop | .rdst | .clrst | .idpack _ _ _ | .idraw | .idsem | .idflg | .frtr _ | .fgbrs _ | .fgesi _ | .fgflg _
  | .gidw _ | .graw _ | .gsid _ | .glen _ | .gerrw _ | .giserr _ | .gisext _ | .gisrtr _ | .gdata _ | .gkind _
  | .decerr _ | .feq _ _ | .ser _ | .rend _ => none

/-- The tag code a command leaves in the slot it writes, by the slot values before it (10_state.md R13, the last column);
a command that writes no slot has the code 3, which no slot has. -/
def tagWritten (i : Instr) (slots : SlotNo → Slot) : Word :=
  match i with
  | .cnew _ _ _ _ | .crtr _ | .narrow _ _ | .desc _ => 1
  | .fnew _ _ _ _ _ | .fsbrs _ _ | .fsesi _ _ | .widen _ _ | .desf _ => 2
  | .fmov _ fs => (slots fs).tagCode
  | .fclr _ => 0
  | .nop | .rdst | .clrst | .idpack _ _ _ | .idraw | .idsem | .idflg | .frtr _ | .fgbrs _ | .fgesi _ | .fgflg _
  | .gidw _ | .graw _ | .gsid _ | .glen _ | .gerrw _ | .giserr _ | .gisext _ | .gisrtr _ | .gdata _ | .gkind _
  | .decerr _ | .feq _ _ | .ser _ | .rend _ => 3

/-- The statuses a legal command can complete with (60_exceptions.md R164). -/
def possibleStatuses : Instr → List StatusCode
  | .nop | .rdst | .clrst | .idraw | .idsem | .idflg => [.ok]
  | .idpack _ _ _ => [.ok, .idTooLarge]
  | .cnew _ _ _ _ | .crtr _ | .fnew _ _ _ _ _ => [.ok, .tooMuchData, .idTooLarge]
  | .frtr _ => [.notConstructible]
  | .fsbrs _ _ | .fsesi _ _ | .fgbrs _ | .fgesi _ | .fgflg _ => [.ok, .eKind]
  | .gidw _ | .graw _ | .gsid _ | .glen _ | .gerrw _ | .giserr _ | .gisext _ | .gisrtr _ | .gdata _ => [.ok, .eKind]
  | .gkind _ | .fclr _ => [.ok]
  | .decerr _ => [.ok, .decodeFail, .eKind]
  | .widen _ _ | .fmov _ _ | .feq _ _ | .ser _ | .rend _ => [.ok, .eKind]
  | .narrow _ _ => [.ok, .tooMuchData, .eKind]
  | .desc _ => [.ok, .tooMuchData]
  | .desf _ => [.ok, .tooMuchData, .eFormat]

/-- `NOP`, `RDST` and `CLRST`, the commands that do not record their completion in `STATUS` (10_state.md R16). -/
def isSystem : Instr → Bool
  | .nop | .rdst | .clrst => true
  | .idpack _ _ _ | .idraw | .idsem | .idflg | .cnew _ _ _ _ | .crtr _ | .fnew _ _ _ _ _ | .frtr _ | .fsbrs _ _
  | .fsesi _ _ | .fgbrs _ | .fgesi _ | .fgflg _ | .gidw _ | .graw _ | .gsid _ | .glen _ | .gerrw _ | .giserr _
  | .gisext _ | .gisrtr _ | .gdata _ | .gkind _ | .decerr _ | .widen _ _ | .narrow _ _ | .fmov _ _ | .fclr _
  | .feq _ _ | .ser _ | .desc _ | .desf _ | .rend _ => false

/-- Whether a command uses `ARG` (10_state.md R17). -/
def usesArg : Instr → Bool
  | .idpack _ _ _ | .idraw | .idsem | .idflg | .cnew _ _ _ _ | .crtr _ | .fnew _ _ _ _ _ => true
  | .nop | .rdst | .clrst | .frtr _ | .fsbrs _ _ | .fsesi _ _ | .fgbrs _ | .fgesi _ | .fgflg _ | .gidw _ | .graw _
  | .gsid _ | .glen _ | .gerrw _ | .giserr _ | .gisext _ | .gisrtr _ | .gdata _ | .gkind _ | .decerr _ | .widen _ _
  | .narrow _ _ | .fmov _ _ | .fclr _ | .feq _ _ | .ser _ | .desc _ | .desf _ | .rend _ => false

/-- Whether a command uses `DLEN` (10_state.md R17). -/
def usesDlen : Instr → Bool
  | .cnew _ _ _ _ | .crtr _ | .fnew _ _ _ _ _ => true
  | .nop | .rdst | .clrst | .idpack _ _ _ | .idraw | .idsem | .idflg | .frtr _ | .fsbrs _ _ | .fsesi _ _ | .fgbrs _
  | .fgesi _ | .fgflg _ | .gidw _ | .graw _ | .gsid _ | .glen _ | .gerrw _ | .giserr _ | .gisext _ | .gisrtr _
  | .gdata _ | .gkind _ | .decerr _ | .widen _ _ | .narrow _ _ | .fmov _ _ | .fclr _ | .feq _ _ | .ser _ | .desc _
  | .desf _ | .rend _ => false

/-- Whether a command uses `DIN[k]`, with `DLEN` and the parameters given (10_state.md R17, 30_encoding.md R56 (e), (f)):
the payload bytes below an accepted `DLEN`, or the bytes of the image. -/
def usesDin (cfg : Config) (dlen : Byte) (k : Nat) : Instr → Bool
  | .cnew _ _ _ _ => decide (dlen.toNat ≤ 8) && decide (k < dlen.toNat)
  | .fnew _ _ _ _ _ => decide (dlen.toNat ≤ 64) && decide (k < dlen.toNat)
  | .desc _ => decide (k < cfg.classicImageSize)
  | .desf _ => decide (k < cfg.fdImageSize)
  | .nop | .rdst | .clrst | .idpack _ _ _ | .idraw | .idsem | .idflg | .crtr _ | .frtr _ | .fsbrs _ _ | .fsesi _ _
  | .fgbrs _ | .fgesi _ | .fgflg _ | .gidw _ | .graw _ | .gsid _ | .glen _ | .gerrw _ | .giserr _ | .gisext _
  | .gisrtr _ | .gdata _ | .gkind _ | .decerr _ | .widen _ _ | .narrow _ _ | .fmov _ _ | .fclr _ | .feq _ _ | .ser _
  | .rend _ => false

/-- Two command ports agree on every field a command uses (10_state.md R17). -/
def agreeOnUsed (cfg : Config) (i : Instr) (p q : Command) : Prop :=
  (usesArg i = true → p.arg = q.arg) ∧ (usesDlen i = true → p.dlen = q.dlen) ∧
    ∀ k : Fin 72, usesDin cfg p.dlen k.val i = true → p.din[k] = q.din[k]

/-! ## Reference forms of the spec's formulas -/

/-- A Boolean result at the port (43_frame_contract.md R100: 1 for true, 0 for false). -/
def bit (b : Bool) : Word := if b then 1 else 0

/-- The identifier word of a numeric id in range and three flags, by bit weights as 30_encoding.md R50 lays it out: bit 31
extended, bit 30 remote, bit 29 error, bits 28:0 the id; extended also when the id exceeds the standard range
(00_scope.md R4). -/
def idWord (id : Word) (ext rtr err : Bool) : Word :=
  BitVec.ofNat 32 (id.toNat + err.toNat * 2 ^ 29 + rtr.toNat * 2 ^ 30 +
    (ext || decide (0x7FF < id.toNat)).toNat * 2 ^ 31)

/-- An identifier word with bit 30 flipped if it is set, every other bit kept (44_union_conversions.md R121). -/
def withoutRtr (w : Word) : Word := if w.getLsbD 30 then w ^^^ 0x40000000#32 else w

/-- The raw identifier of a word at the port (40_identifier_codec.md R72): its low 29 bits as a number. -/
def rawWord (w : Word) : Word := BitVec.ofNat 32 (w.toNat % 2 ^ 29)

/-- The semantic identifier of a word at the port (40_identifier_codec.md R73): bit 31 is the variant, and the value has
29 bits when it is extended and 11 when it is standard. -/
def semWord (w : Word) : Word :=
  if w.getLsbD 31 then BitVec.ofNat 32 (2 ^ 31 + w.toNat % 2 ^ 29) else BitVec.ofNat 32 (w.toNat % 2 ^ 11)

/-- Three flags at the port (40_identifier_codec.md R74): extended in bit 0, remote in bit 1, error in bit 2. -/
def flagBits (w : Word) : Word :=
  BitVec.ofNat 32 ((w.getLsbD 31).toNat + 2 * (w.getLsbD 30).toNat + 4 * (w.getLsbD 29).toNat)

/-- The payload buffer a constructor makes from `DIN` (41_classic_frame.md R81, 42_fd_frame.md R91). -/
def payloadBuffer (n : Nat) (p : Command) : Vector Byte n :=
  Vector.ofFn fun k => if k.val < p.dlen.toNat then p.dinByte k.val else 0

/-- The whole buffer of an image on `DIN`, payload byte 0 at an offset (45_raw_image.md R132, R133). -/
def imageBuffer (n off : Nat) (p : Command) : Vector Byte n := Vector.ofFn fun k => p.dinByte (off + k.val)

/-- The identifier word in bytes 0 to 3 of the image on `DIN`, by byte weights (20_memory.md R32). -/
def imageWordOf (e : Endian) (p : Command) : Word :=
  match e with
  | .little =>
    BitVec.ofNat 32 ((p.dinByte 0).toNat + (p.dinByte 1).toNat * 2 ^ 8 + (p.dinByte 2).toNat * 2 ^ 16 +
      (p.dinByte 3).toNat * 2 ^ 24)
  | .big =>
    BitVec.ofNat 32 ((p.dinByte 3).toNat + (p.dinByte 2).toNat * 2 ^ 8 + (p.dinByte 1).toNat * 2 ^ 16 +
      (p.dinByte 0).toNat * 2 ^ 24)

/-- Byte `k` (0 to 3) of an identifier word inside an image (20_memory.md R32). -/
def imageWordByte (e : Endian) (w : Word) (k : Nat) : Byte :=
  match e with
  | .little => w.extractLsb' (8 * k) 8
  | .big => w.extractLsb' (8 * (3 - k)) 8

/-- A byte list is the image of a classic frame (20_memory.md R30, R32, R33 at the parameters): its size, the word, the
length byte, the payload at its offset, and zero everywhere else. -/
def isClassicImage (cfg : Config) (f : ClassicFrame) (img : List Byte) : Prop :=
  img.length = cfg.classicImageSize ∧ (∀ k, k < 4 → img[k]? = some (imageWordByte cfg.imageEndian f.idw k)) ∧
    img[4]? = some f.len ∧ (∀ k : Fin 8, img[cfg.classicDataOffset + k.val]? = some f.data[k]) ∧
    ∀ k, (5 ≤ k ∧ k < cfg.classicDataOffset) ∨ (cfg.classicDataOffset + 8 ≤ k ∧ k < cfg.classicImageSize) →
      img[k]? = some 0

/-- A byte list is the image of an FD frame (20_memory.md R31, R32, R33 at the parameters). -/
def isFdImage (cfg : Config) (f : FdFrame) (img : List Byte) : Prop :=
  img.length = cfg.fdImageSize ∧ (∀ k, k < 4 → img[k]? = some (imageWordByte cfg.imageEndian f.idw k)) ∧
    img[4]? = some f.len ∧ img[5]? = some f.flags ∧
    (∀ k : Fin 64, img[cfg.fdDataOffset + k.val]? = some f.data[k]) ∧
    ∀ k, (6 ≤ k ∧ k < cfg.fdDataOffset) ∨ (cfg.fdDataOffset + 64 ≤ k ∧ k < cfg.fdImageSize) → img[k]? = some 0

/-- Semantic equality as 10_state.md R24 states it: same tag, identifier word, length, meaningful payload bytes, and for FD
the same flags byte; trailing buffer bytes take no part. -/
def SemEq : Slot → Slot → Prop
  | .classic a, .classic b =>
    a.idw = b.idw ∧ a.len = b.len ∧ ∀ k, k < a.len.toNat → a.data[k]? = b.data[k]?
  | .fd a, .fd b =>
    a.idw = b.idw ∧ a.len = b.len ∧ (∀ k, k < a.len.toNat → a.data[k]? = b.data[k]?) ∧ a.flags = b.flags
  | _, _ => False

/-- The ASCII code of an uppercase hexadecimal digit (46_text_rendering.md R140). -/
def digitCode (n : Nat) : Byte := if n < 10 then BitVec.ofNat 8 (0x30 + n) else BitVec.ofNat 8 (0x41 + (n - 10))

/-- The digits are those of a number in a base, most significant first, as ASCII, with no leading zero, a single `0` for
zero (00_scope.md R3, `hexU` and `dec`). -/
def isNumeral (base n : Nat) (text : List Byte) : Prop :=
  ∃ ds : List Nat, ds ≠ [] ∧ (∀ d ∈ ds, d < base) ∧ ds.foldl (fun acc d => acc * base + d) 0 = n ∧
    (ds.head? = some 0 → ds = [0]) ∧ text = ds.map digitCode

/-- The payload part of a text: two uppercase hexadecimal digits a byte, a separator between bytes, none before the first
and none after the last (46_text_rendering.md R141). -/
def textOfPayload (sep : List Byte) : List Byte → List Byte
  | [] => []
  | [b] => [digitCode (b.toNat / 16), digitCode (b.toNat % 16)]
  | b :: c :: rest => [digitCode (b.toNat / 16), digitCode (b.toNat % 16)] ++ sep ++ textOfPayload sep (c :: rest)

/-- `sep` of 46_text_rendering.md R141. -/
def separator : RenderSep → List Byte
  | .space => [0x20#8]
  | .none => []

/-- The number of digits of a number in a base, 1 for zero (46_text_rendering.md R142). -/
def digitCount (base n : Nat) : Nat := max 1 (Nat.digits base n).length

end Sys2Proof.Safety
end

