-- ==== Sys2Proof/Certificates/Slice0/Obligations.lean ====
section
/-! DEFINITION. The statements about CANFC, taken from the numbered rules of spec/. -/

open Sys2Proof Sys2Proof.Machine Sys2Proof.Safety

/-! ## Reset, invariant, stepping -/

/-- 10_state.md R21: every slot `EMPTY`, `STATUS.LAST` = `OK`, `STATUS.STICKY` = 0, `STATUS[7:5]` = 0, no response. -/
def Obligations.ResetStateValues : Prop :=
  (∀ k : SlotNo, State.reset.slot k = .empty) ∧ State.reset.status.last = .ok ∧
    State.reset.status.sticky = false ∧ State.reset.status.word.extractLsb' 5 3 = 0 ∧ State.reset.rsp = none

/-- The invariant holds at reset. It includes the well-formedness of the default parameters (00_scope.md, table of
parameters; the joint bounds are the model's, log entry 4). -/
def Obligations.ResetMeetsInvariant : Prop := Inv State.reset

/-- Slot invariants (a), (b), (c), the bound of the response port and the well-formedness of the parameters are kept by
every step, from every state that meets them (10_state.md, sections 1 and 4). -/
def Obligations.StepKeepsInvariant : Prop :=
  ∀ s t : State, Inv s → step s = .next t → Inv t

/-- Invariants (d) and (e) of 10_state.md section 1, (e) being an inference of the spec ('[derived: from 00_scope.md rule
R4]'): what the constructors and the conversions write has a zero tail, and
the constructors' words are packed; a copy and a widening keep a zero tail. -/
def Obligations.ConstructedSlotsAreZeroFilled : Prop :=
  ∀ (i : Instr) (s t : State) (fd : SlotNo), exec i s = .next t → writes i = some fd →
    (∃ r, t.rsp = some r ∧ r.st = .ok) →
    match i with
    | .cnew _ _ _ _ | .crtr _ | .fnew _ _ _ _ _ =>
      zeroTail (t.slot fd) ∧ ∀ h, (t.slot fd).header = some h → packedWord h.idw
    | .narrow _ _ => zeroTail (t.slot fd)
    | .widen _ fs | .fmov _ fs => zeroTail (s.slot fs) → zeroTail (t.slot fd)
    | _ => True

/-- A step runs the decoded command: the event leaves the stream, its fields go onto the command port, and the step is
`exec` of the decoded command at that state. -/
def Obligations.StepRunsDecodedInstruction : Prop :=
  ∀ (s : State) (c : Command) (rest : List HostEvent) (i : Instr),
    s.stream = .command c :: rest → decode c.cw = .ok i → i.wf = true →
      step s = exec i { s with port := c, stream := rest }

/-- 30_encoding.md R58: a word that is no instance of any row is illegal, and whatever `ARG`, `DLEN` and `DIN` hold it
completes with `E_ILLEGAL`, writes no slot and updates `STATUS`; a word that is an instance is not illegal. -/
def Obligations.IllegalWordsCompleteWithEIllegal : Prop :=
  ∀ (s : State) (c : Command) (rest : List HostEvent), s.stream = .command c :: rest →
    (¬ isLegalWord c.cw →
      Answers (step s) { s with port := c, stream := rest } .eIllegal 0 [] s.slot) ∧
    (isLegalWord c.cw → ∃ r, responseOf (step s) = some r ∧ r.st ≠ .eIllegal)

/-- A pulse of the reset input leaves the state of 10_state.md section 6 whatever the state was, takes no command and gives
no response; with nothing presented the block waits. The event and the waiting step are the model's (log entries 1, 2). -/
def Obligations.StepOnResetPulseAndIdle : Prop :=
  (∀ (s : State) (rest : List HostEvent), s.stream = .reset :: rest →
    ∃ t, step s = .next t ∧ (∀ k, t.slot k = .empty) ∧ t.status.word = 0 ∧ t.rsp = none ∧ t.stream = rest ∧
      t.cfg = s.cfg) ∧
  ∀ s : State, s.stream = [] → step s = .next s

/-- Every combination of command port fields, in every state, has a response: the step answers a next state with a response
on the port (60_exceptions.md section 5). The stream, and the response held in the state, are the model's choice (log
entries 1, 8). -/
def Obligations.EveryCommandGetsAResponse : Prop :=
  ∀ (s : State) (c : Command) (rest : List HostEvent), s.stream = .command c :: rest →
    ∃ t r, step s = .next t ∧ t.rsp = some r ∧ t.stream = rest

/-- 20_memory.md R38: the state after a command list is the left fold of the step function over the list. -/
def Obligations.RunIsFoldOfSteps : Prop :=
  ∀ (s : State) (cs : List Command),
    Host.Core.run Sys2Proof.core cs.length { s with stream := cs.map .command } =
      .next (cs.foldl runOne { s with stream := [] })

/-! ## Encoding -/

/-- Decoding an encoded command gives it back, for every command and every operand value. -/
def Obligations.DecodeAfterEncode : Prop :=
  ∀ i : Instr, i.wf = true → decode (encode i) = .ok i

/-- Encoding what a word decodes to gives the word back: each legal word has one meaning and every bit of it counts. -/
def Obligations.EncodeAfterDecode : Prop :=
  ∀ (w : Word) (i : Instr), decode w = .ok i → encode i = w

/-- 30_encoding.md R55 and R60: the decoder accepts exactly the instances of the table's rows. -/
def Obligations.DecoderAcceptsExactlyTheTable : Prop :=
  ∀ w : Word, (∃ i, decode w = .ok i) ↔ isLegalWord w

/-- Command words written out from the Encoding lines of files 40 to 47, one a family. -/
def Obligations.DecodeOfSpecWords : Prop :=
  decode 0x02000000#32 = .ok .clrst ∧ decode 0x10000004#32 = .ok (.idpack true false false) ∧
    decode 0x20400000#32 = .ok (.cnew 1 false false false) ∧ decode 0x30000008#32 = .ok (.fnew 0 false true false false) ∧
    decode 0x40100000#32 = .ok (.gidw 1) ∧ decode 0x50900000#32 = .ok (.widen 2 1) ∧
    decode 0x541C0000#32 = .ok (.feq 1 3) ∧ decode 0x62800000#32 = .ok (.desf 2) ∧
    decode 0x70100000#32 = .ok (.rend 1)

/-! ## Rules over all commands -/

/-- 60_exceptions.md R163: a completion with a code other than `OK` writes no slot, has no value and no bytes, and updates
`STATUS`. -/
def Obligations.FailureWritesNoSlot : Prop :=
  ∀ (s t : State) (c : Command) (rest : List HostEvent) (r : Response), s.stream = .command c :: rest →
    step s = .next t → t.rsp = some r → r.st ≠ .ok →
      (∀ k, t.slot k = s.slot k) ∧ r.val = 0 ∧ r.blen = 0 ∧ t.status.last = r.st ∧ t.status.sticky = true

/-- 10_state.md R16: `NOP` and `RDST` leave `STATUS`, `CLRST` clears it, every other command, an illegal word included,
records its code; and no result but that of `RDST` depends on `STATUS`. -/
def Obligations.StatusUpdateRule : Prop :=
  (∀ (s t : State) (c : Command) (rest : List HostEvent) (r : Response), s.stream = .command c :: rest →
    step s = .next t → t.rsp = some r →
      ((decode c.cw = .ok .nop ∨ decode c.cw = .ok .rdst) → t.status = s.status) ∧
      (decode c.cw = .ok .clrst → t.status.word = 0) ∧
      ((∀ i, decode c.cw = .ok i → isSystem i = false) →
        t.status.last = r.st ∧ t.status.sticky = (s.status.sticky || decide (r.st ≠ .ok)))) ∧
  ∀ (i : Instr) (s : State) (x : Status), i ≠ .rdst →
    responseOf (exec i { s with status := x }) = responseOf (exec i s) ∧
      ∀ t u, exec i s = .next t → exec i { s with status := x } = .next u → u.slots = t.slots

/-- Over a run of commands with no `CLRST` among them, `STATUS.STICKY` at the end is 1 exactly when it was 1 at the start or
some response has a code other than `OK`; so a run that ends with it 0 has source-defined responses only (10_state.md
section 3, 60_exceptions.md section 2). -/
def Obligations.StickyRecordsEveryFailure : Prop :=
  ∀ (n : Nat) (s : State),
    (∀ e ∈ s.stream, ∃ c, e = .command c ∧ decode c.cw ≠ .ok .clrst) → n ≤ s.stream.length →
      ((observe n s).2.status.sticky = true ↔
        s.status.sticky = true ∨ ∃ r, some r ∈ (observe n s).1 ∧ r.st ≠ .ok) ∧
      ((observe n s).2.status.sticky = false →
        ∀ r ∈ (observe n s).1, ∃ q, r = some q ∧ sourceDefined q = true)

/-- 10_state.md R13: every slot a command does not write, and every slot when it does not complete `OK`, keeps its value; a
slot read with a tag that is not accepted completes with `E_KIND` and changes nothing but `STATUS` and the response; the
slot written has the tag of the table; a slot the table does not list as read has no influence, the overwritten one
included; and with `fd` equal to `fs` the source is read in full before it is written. -/
def Obligations.SlotAccessTable : Prop :=
  (∀ (i : Instr) (s t : State) (k : SlotNo), exec i s = .next t →
    (writes i = some k → ∃ r, t.rsp = some r ∧ r.st ≠ .ok) → t.slot k = s.slot k) ∧
  (∀ (i : Instr) (s : State), (∃ q ∈ reads i, q.2.accepts (s.slot q.1) = false) →
    Answers (exec i s) s .eKind 0 [] s.slot) ∧
  (∀ (i : Instr) (s t : State) (fd : SlotNo), exec i s = .next t → writes i = some fd →
    (∃ r, t.rsp = some r ∧ r.st = .ok) → (t.slot fd).tagCode = tagWritten i s.slot) ∧
  (∀ (i : Instr) (s : State) (k : SlotNo) (v : Slot), (∀ q ∈ reads i, q.1 ≠ k) →
    ∃ t u, exec i s = .next t ∧ exec i (s.setSlot k v) = .next u ∧ u.rsp = t.rsp ∧ u.status = t.status ∧
      (∀ j, j ≠ k → u.slot j = t.slot j) ∧
      (writes i = some k → (∃ r, t.rsp = some r ∧ r.st = .ok) → u.slot k = t.slot k)) ∧
  ∀ (s t u : State) (fd fs : SlotNo),
    (exec (.widen fs fs) s = .next t → exec (.widen fd fs) s = .next u →
      responseOf (exec (.widen fs fs) s) = some ⟨.ok, 0, []⟩ → t.slot fs = u.slot fd) ∧
    (exec (.narrow fs fs) s = .next t → exec (.narrow fd fs) s = .next u →
      responseOf (exec (.narrow fs fs) s) = some ⟨.ok, 0, []⟩ → t.slot fs = u.slot fd) ∧
    (exec (.fmov fs fs) s = .next t → exec (.fmov fd fs) s = .next u →
      responseOf (exec (.fmov fs fs) s) = some ⟨.ok, 0, []⟩ → t.slot fs = u.slot fd)

/-- The frame of every command: every slot but the written one keeps its value (10_state.md sections 1 and 7). The clauses
about the command port, the host's stream and the parameters are the model's choice, about its own fields: the stream (log
entry 1), the port that keeps the fields sampled last (log entry 3, where the spec says no more than that nothing is
retained), the parameters carried in the state (log entry 4). -/
def Obligations.CommandFrame : Prop :=
  ∀ (i : Instr) (s t : State), exec i s = .next t →
    t.port = s.port ∧ t.stream = s.stream ∧ t.cfg = s.cfg ∧ ∀ k, writes i ≠ some k → t.slot k = s.slot k

/-- The port fields a command does not use never affect what it does (10_state.md section 4). That the port keeps the fields
sampled is the model's choice (log entry 3). -/
def Obligations.UnusedOperandsAreIgnored : Prop :=
  ∀ (i : Instr) (s : State) (p : Command), s.cfg.wf = true → agreeOnUsed s.cfg i s.port p →
    ∃ t, exec i s = .next t ∧ exec i { s with port := p } = .next { t with port := p }

/-- The table of 60_exceptions.md section 2, 'Which statuses each command can complete with', an inference of the spec
('[derived: from the command rules of files 40 to 47]'): the statuses each legal command can complete with, no other, and
each of them in some state; for `DECERR`, whose `OK` and `DECODE_FAIL` rest with the collaborator, with some
collaborator. -/
def Obligations.PossibleStatuses : Prop :=
  (∀ (i : Instr) (s t : State), exec i s = .next t → ∃ r, t.rsp = some r ∧ r.st ∈ possibleStatuses i) ∧
  (∀ (i : Instr) (c : StatusCode), (∀ fs, i ≠ .decerr fs) → c ∈ possibleStatuses i →
    ∃ s r, responseOf (exec i s) = some r ∧ r.st = c) ∧
  ∀ (fs : SlotNo) (c : StatusCode), c ∈ possibleStatuses (.decerr fs) →
    ∃ f s r, responseOf (decerrWith f fs s) = some r ∧ r.st = c

/-- 60_exceptions.md R162, the order of checks: the encoding first, whatever the state; then the tags of the slots read;
then the payload length; then the identifier range or the image format; then the collaborator. The destination is never
checked. -/
def Obligations.ChecksInOrder : Prop :=
  (∀ (s : State) (c : Command) (rest : List HostEvent), s.stream = .command c :: rest → ¬ isLegalWord c.cw →
    ∃ r, responseOf (step s) = some r ∧ r.st = .eIllegal) ∧
  (∀ (i : Instr) (s : State), (∃ q ∈ reads i, q.2.accepts (s.slot q.1) = false) →
    ∃ r, responseOf (exec i s) = some r ∧ r.st = .eKind) ∧
  (∀ (i : Instr) (s : State), (∀ q ∈ reads i, q.2.accepts (s.slot q.1) = true) →
    match i with
    | .cnew _ _ _ _ | .crtr _ =>
      (8 < s.port.dlen.toNat → ∃ r, responseOf (exec i s) = some r ∧ r.st = .tooMuchData) ∧
      (s.port.dlen.toNat ≤ 8 → 0x1FFFFFFF < s.port.arg.toNat →
        ∃ r, responseOf (exec i s) = some r ∧ r.st = .idTooLarge)
    | .fnew _ _ _ _ _ =>
      (64 < s.port.dlen.toNat → ∃ r, responseOf (exec i s) = some r ∧ r.st = .tooMuchData) ∧
      (s.port.dlen.toNat ≤ 64 → 0x1FFFFFFF < s.port.arg.toNat →
        ∃ r, responseOf (exec i s) = some r ∧ r.st = .idTooLarge)
    | .idpack _ _ _ =>
      0x1FFFFFFF < s.port.arg.toNat → ∃ r, responseOf (exec i s) = some r ∧ r.st = .idTooLarge
    | .narrow _ fs =>
      ∀ f, s.slot fs = .fd f → 8 < f.len.toNat → ∃ r, responseOf (exec i s) = some r ∧ r.st = .tooMuchData
    | .desc _ =>
      8 < (s.port.dinByte 4).toNat → ∃ r, responseOf (exec i s) = some r ∧ r.st = .tooMuchData
    | .desf _ =>
      (64 < (s.port.dinByte 4).toNat → ∃ r, responseOf (exec i s) = some r ∧ r.st = .tooMuchData) ∧
      ((s.port.dinByte 4).toNat ≤ 64 → (imageWordOf s.cfg.imageEndian s.port).getLsbD 30 = true →
        ∃ r, responseOf (exec i s) = some r ∧ r.st = .eFormat)
    | .decerr fs =>
      ∃ r, responseOf (exec i s) = some r ∧
        (r.st = .decodeFail ↔ Config.errDecode (s.slot fs).tagCode ((s.slot fs).image s.cfg) = none) ∧
        (r.st = .ok ↔ Config.errDecode (s.slot fs).tagCode ((s.slot fs).image s.cfg) ≠ none)
    | .frtr _ => ∃ r, responseOf (exec i s) = some r ∧ r.st = .notConstructible
    | _ => ∃ r, responseOf (exec i s) = some r ∧ r.st = .ok) ∧
  ∀ (i : Instr) (s : State) (fd : SlotNo) (v : Slot), writes i = some fd → (∀ q ∈ reads i, q.1 ≠ fd) →
    responseOf (exec i (s.setSlot fd v)) = responseOf (exec i s)

/-! ## System commands -/

/-- 47_system.md R151, R152, R153. -/
def Obligations.SystemCommands : Prop :=
  ∀ s : State,
    exec .nop s = .next { s with rsp := some ⟨.ok, 0, []⟩ } ∧
    (∃ v : Word, exec .rdst s = .next { s with rsp := some ⟨.ok, v, []⟩ } ∧
      v.extractLsb' 0 4 = s.status.last.code ∧ v.getLsbD 4 = s.status.sticky ∧ v.extractLsb' 5 27 = 0) ∧
    exec .clrst s = .next { s with status := ⟨.ok, false⟩, rsp := some ⟨.ok, 0, []⟩ }

/-! ## Identifier codec -/

/-- 40_identifier_codec.md R71, with the packed word laid out bit by bit. -/
def Obligations.IdpackResult : Prop :=
  ∀ (s : State) (err rtr ext : Bool),
    (s.port.arg.toNat ≤ 0x1FFFFFFF →
      Answers (exec (.idpack err rtr ext) s) s .ok (idWord s.port.arg ext rtr err) [] s.slot) ∧
    (0x1FFFFFFF < s.port.arg.toNat → Answers (exec (.idpack err rtr ext) s) s .idTooLarge 0 [] s.slot)

/-- 40_identifier_codec.md R72, R73, R74. -/
def Obligations.UnpackResults : Prop :=
  ∀ s : State,
    Answers (exec .idraw s) s .ok (rawWord s.port.arg) [] s.slot ∧
    Answers (exec .idsem s) s .ok (semWord s.port.arg) [] s.slot ∧
    Answers (exec .idflg s) s .ok (flagBits s.port.arg) [] s.slot

/-- The laws of the codec (a) to (f), 40_identifier_codec.md, an inference of the spec ('[derived: from 00_scope.md rule
R4]'). -/
def Obligations.CodecLaws : Prop :=
  ∀ (id : Word) (e r x : Bool),
    (id.toNat ≤ 0x1FFFFFFF → ∃ w, packId id e r x = some w ∧ rawId w = id ∧
      isExt w = (e || decide (0x7FF < id.toNat)) ∧ isRtr w = r ∧ isErr w = x ∧
      semId w = (if e || decide (0x7FF < id.toNat) then .extended (id.setWidth 29) else .standard (id.setWidth 11)) ∧
      packId (rawId w) (isExt w) (isRtr w) (isErr w) = some w) ∧
    (0x1FFFFFFF < id.toNat → packId id e r x = none)

/-- 30_encoding.md section 1, an inference of the spec ('[derived: from 00_scope.md rule R4]'): the words `pack_id` can
produce are exactly those with the extended flag set or bits 11 to 28 zero. -/
def Obligations.PackableWords : Prop :=
  ∀ w : Word, (∃ id e r x, packId id e r x = some w) ↔ packedWord w

/-! ## Classic frame construction -/

/-- 41_classic_frame.md R81: the three outcomes of `CNEW` and the whole slot it writes. -/
def Obligations.CnewResult : Prop :=
  ∀ (s : State) (fd : SlotNo) (err rtr ext : Bool),
    (s.port.dlen.toNat ≤ 8 → s.port.arg.toNat ≤ 0x1FFFFFFF →
      Answers (exec (.cnew fd err rtr ext) s) s .ok 0 []
        (slotsWith s fd (.classic ⟨idWord s.port.arg ext rtr err, s.port.dlen, payloadBuffer 8 s.port⟩))) ∧
    (8 < s.port.dlen.toNat → Answers (exec (.cnew fd err rtr ext) s) s .tooMuchData 0 [] s.slot) ∧
    (s.port.dlen.toNat ≤ 8 → 0x1FFFFFFF < s.port.arg.toNat →
      Answers (exec (.cnew fd err rtr ext) s) s .idTooLarge 0 [] s.slot)

/-- 41_classic_frame.md R82: the three outcomes of `CRTR`; the requested length is kept and the payload is all zero. -/
def Obligations.CrtrResult : Prop :=
  ∀ (s : State) (fd : SlotNo),
    (s.port.dlen.toNat ≤ 8 → s.port.arg.toNat ≤ 0x1FFFFFFF →
      Answers (exec (.crtr fd) s) s .ok 0 []
        (slotsWith s fd (.classic ⟨idWord s.port.arg false true false, s.port.dlen, Vector.replicate 8 0⟩))) ∧
    (8 < s.port.dlen.toNat → Answers (exec (.crtr fd) s) s .tooMuchData 0 [] s.slot) ∧
    (s.port.dlen.toNat ≤ 8 → 0x1FFFFFFF < s.port.arg.toNat →
      Answers (exec (.crtr fd) s) s .idTooLarge 0 [] s.slot)

/-- After `CNEW` completes `OK`, the accessors return its inputs and the slot meets the invariants: the properties (a) to (c)
at the end of 41_classic_frame.md, an inference of the spec ('[derived: from rule R81, ...]'). -/
def Obligations.ConstructedClassicFrameReadsBack : Prop :=
  ∀ (s : State) (fd : SlotNo) (err rtr ext : Bool),
    s.port.dlen.toNat ≤ 8 → s.port.arg.toNat ≤ 0x1FFFFFFF →
      ∃ t, exec (.cnew fd err rtr ext) s = .next t ∧ responseOf (exec (.cnew fd err rtr ext) s) = some ⟨.ok, 0, []⟩ ∧
        responseOf (exec (.glen fd) t) = some ⟨.ok, s.port.dlen.setWidth 32, []⟩ ∧
        responseOf (exec (.gdata fd) t) =
          some ⟨.ok, s.port.dlen.setWidth 32, (List.range s.port.dlen.toNat).map s.port.dinByte⟩ ∧
        responseOf (exec (.graw fd) t) = some ⟨.ok, s.port.arg, []⟩ ∧
        responseOf (exec (.gisext fd) t) = some ⟨.ok, bit (ext || decide (0x7FF < s.port.arg.toNat)), []⟩ ∧
        responseOf (exec (.gisrtr fd) t) = some ⟨.ok, bit rtr, []⟩ ∧
        responseOf (exec (.giserr fd) t) = some ⟨.ok, bit err, []⟩ ∧
        slotWf (t.slot fd) = true ∧ zeroTail (t.slot fd) ∧ ∀ h, (t.slot fd).header = some h → packedWord h.idw

/-! ## FD frame construction and flags -/

/-- 42_fd_frame.md R91: the three outcomes of `FNEW` and the whole slot it writes, for all four combinations of the two
flag arguments. -/
def Obligations.FnewResult : Prop :=
  ∀ (s : State) (fd : SlotNo) (esi brs err ext : Bool),
    (s.port.dlen.toNat ≤ 64 → s.port.arg.toNat ≤ 0x1FFFFFFF →
      Answers (exec (.fnew fd esi brs err ext) s) s .ok 0 []
        (slotsWith s fd (.fd ⟨idWord s.port.arg ext false err, s.port.dlen,
          (match brs, esi with
            | false, false => 0
            | true, false => s.cfg.brsMask
            | false, true => s.cfg.esiMask
            | true, true => s.cfg.brsMask ||| s.cfg.esiMask), payloadBuffer 64 s.port⟩))) ∧
    (64 < s.port.dlen.toNat → Answers (exec (.fnew fd esi brs err ext) s) s .tooMuchData 0 [] s.slot) ∧
    (s.port.dlen.toNat ≤ 64 → 0x1FFFFFFF < s.port.arg.toNat →
      Answers (exec (.fnew fd esi brs err ext) s) s .idTooLarge 0 [] s.slot)

/-- 42_fd_frame.md R92: `FRTR` always completes `NOT_CONSTRUCTIBLE` and writes nothing. -/
def Obligations.FrtrNeverConstructs : Prop :=
  ∀ (s : State) (fd : SlotNo), Answers (exec (.frtr fd) s) s .notConstructible 0 [] s.slot

/-- 42_fd_frame.md R93, R94: each mutator sets or clears the bits of its mask in the flags byte of an `FD` slot, bit by
bit, and changes nothing else of the frame; on any other slot it completes `E_KIND`. -/
def Obligations.FlagMutators : Prop :=
  ∀ (s : State) (fs : SlotNo) (on : Bool),
    (∀ f, s.slot fs = .fd f → ∃ g h : Byte,
      (∀ k, k < 8 → g.getLsbD k = if s.cfg.brsMask.getLsbD k then on else f.flags.getLsbD k) ∧
      (∀ k, k < 8 → h.getLsbD k = if s.cfg.esiMask.getLsbD k then on else f.flags.getLsbD k) ∧
      Answers (exec (.fsbrs fs on) s) s .ok 0 [] (slotsWith s fs (.fd { f with flags := g })) ∧
      Answers (exec (.fsesi fs on) s) s .ok 0 [] (slotsWith s fs (.fd { f with flags := h }))) ∧
    ((∀ f, s.slot fs ≠ .fd f) →
      Answers (exec (.fsbrs fs on) s) s .eKind 0 [] s.slot ∧
      Answers (exec (.fsesi fs on) s) s .eKind 0 [] s.slot)

/-- The flag readers of an `FD` slot, `FGBRS`, `FGESI` and `FGFLG`; on any other slot they complete `E_KIND` (42_fd_frame.md).
The clauses about `FGESI` rest on an inference the spec marks as its own ('[derived: from rule R95 by symmetry]'). -/
def Obligations.FlagReaders : Prop :=
  ∀ (s : State) (fs : SlotNo),
    (∀ f, s.slot fs = .fd f →
      Answers (exec (.fgbrs fs) s) s .ok
        (if ∃ k : Fin 8, s.cfg.brsMask.getLsbD k = true ∧ f.flags.getLsbD k = true then 1 else 0) [] s.slot ∧
      Answers (exec (.fgesi fs) s) s .ok
        (if ∃ k : Fin 8, s.cfg.esiMask.getLsbD k = true ∧ f.flags.getLsbD k = true then 1 else 0) [] s.slot ∧
      Answers (exec (.fgflg fs) s) s .ok (f.flags.setWidth 32) [] s.slot) ∧
    ((∀ f, s.slot fs ≠ .fd f) →
      Answers (exec (.fgbrs fs) s) s .eKind 0 [] s.slot ∧
      Answers (exec (.fgesi fs) s) s .eKind 0 [] s.slot ∧
      Answers (exec (.fgflg fs) s) s .eKind 0 [] s.slot)

/-- The two flags are independent, the mutators commute, and the constructor sets both: the properties (a) to (d) of FD flags
in 42_fd_frame.md, an inference of the spec ('These hold because `BRS_MASK` and `ESI_MASK` are distinct single bits
[derived: ...]'). -/
def Obligations.FlagLaws : Prop :=
  ∀ s : State, s.cfg.wf = true →
    (∀ (fs : SlotNo) (f : FdFrame) (b c : Bool), s.slot fs = .fd f →
      ∃ t u v, exec (.fsbrs fs b) s = .next t ∧ exec (.fsesi fs c) s = .next u ∧
        responseOf (exec (.fgbrs fs) t) = some ⟨.ok, bit b, []⟩ ∧
        responseOf (exec (.fgesi fs) t) = responseOf (exec (.fgesi fs) s) ∧
        responseOf (exec (.fgesi fs) u) = some ⟨.ok, bit c, []⟩ ∧
        responseOf (exec (.fgbrs fs) u) = responseOf (exec (.fgbrs fs) s) ∧
        exec (.fsesi fs c) t = .next v ∧ exec (.fsbrs fs b) u = .next v) ∧
    ∀ (fd : SlotNo) (esi brs err ext : Bool), s.port.dlen.toNat ≤ 64 → s.port.arg.toNat ≤ 0x1FFFFFFF →
      ∃ t, exec (.fnew fd esi brs err ext) s = .next t ∧
        responseOf (exec (.fgbrs fd) t) = some ⟨.ok, bit brs, []⟩ ∧
        responseOf (exec (.fgesi fd) t) = some ⟨.ok, bit esi, []⟩

/-! ## Frame capability contract -/

/-- 43_frame_contract.md R101 to R107: the accessors over (`idw`, `len`), on a frame of either kind and on an `EMPTY`
slot. -/
def Obligations.HeaderAccessors : Prop :=
  ∀ (s : State) (fs : SlotNo),
    (∀ w n, (s.slot fs).header = some ⟨w, n⟩ →
      Answers (exec (.gidw fs) s) s .ok w [] s.slot ∧
      Answers (exec (.graw fs) s) s .ok (rawWord w) [] s.slot ∧
      Answers (exec (.gsid fs) s) s .ok (semWord w) [] s.slot ∧
      Answers (exec (.glen fs) s) s .ok (n.setWidth 32) [] s.slot ∧
      Answers (exec (.gerrw fs) s) s .ok (w &&& s.cfg.errMask) [] s.slot ∧
      Answers (exec (.giserr fs) s) s .ok (bit (w.getLsbD 29)) [] s.slot ∧
      Answers (exec (.gisext fs) s) s .ok (bit (w.getLsbD 31)) [] s.slot) ∧
    (s.slot fs = .empty →
      Answers (exec (.gidw fs) s) s .eKind 0 [] s.slot ∧ Answers (exec (.graw fs) s) s .eKind 0 [] s.slot ∧
      Answers (exec (.gsid fs) s) s .eKind 0 [] s.slot ∧ Answers (exec (.glen fs) s) s .eKind 0 [] s.slot ∧
      Answers (exec (.gerrw fs) s) s .eKind 0 [] s.slot ∧ Answers (exec (.giserr fs) s) s .eKind 0 [] s.slot ∧
      Answers (exec (.gisext fs) s) s .eKind 0 [] s.slot)

/-- 43_frame_contract.md R108: `GISRTR` is 0 on an `FD` slot and bit 30 on a `CLASSIC` slot; on an `FD` slot that meets the
invariant the constant and the formula agree. -/
def Obligations.GisrtrResult : Prop :=
  ∀ (s : State) (fs : SlotNo),
    (∀ c, s.slot fs = .classic c → Answers (exec (.gisrtr fs) s) s .ok (bit (c.idw.getLsbD 30)) [] s.slot) ∧
    (∀ f, s.slot fs = .fd f → Answers (exec (.gisrtr fs) s) s .ok 0 [] s.slot ∧
      (slotWf (s.slot fs) = true → bit (f.idw.getLsbD 30) = 0)) ∧
    (s.slot fs = .empty → Answers (exec (.gisrtr fs) s) s .eKind 0 [] s.slot)

/-- 43_frame_contract.md R109: `GDATA` returns exactly `len` bytes, byte `k` of the buffer each, and `len` as the value, on a
slot that meets the invariant. -/
def Obligations.GdataReturnsThePayload : Prop :=
  ∀ (s : State) (fs : SlotNo),
    (∀ c, s.slot fs = .classic c → slotWf (s.slot fs) = true →
      ∃ bs, Answers (exec (.gdata fs) s) s .ok (c.len.setWidth 32) bs s.slot ∧ bs.length = c.len.toNat ∧
        ∀ k, k < c.len.toNat → bs[k]? = c.data[k]?) ∧
    (∀ f, s.slot fs = .fd f → slotWf (s.slot fs) = true →
      ∃ bs, Answers (exec (.gdata fs) s) s .ok (f.len.setWidth 32) bs s.slot ∧ bs.length = f.len.toNat ∧
        ∀ k, k < f.len.toNat → bs[k]? = f.data[k]?) ∧
    (s.slot fs = .empty → Answers (exec (.gdata fs) s) s .eKind 0 [] s.slot)

/-- 43_frame_contract.md R110: `GKIND` returns the tag code of any slot, an `EMPTY` one included. -/
def Obligations.GkindResult : Prop :=
  ∀ (s : State) (fs : SlotNo),
    Answers (exec (.gkind fs) s) s .ok
      (match s.slot fs with
        | .empty => 0
        | .classic _ => 1
        | .fd _ => 2) [] s.slot

/-- On a `CLASSIC` slot and on the `FD` slot `WIDEN` makes of it, the accessors return the same, and `GIDW` the same but for
`RTR_FLAG` (43_frame_contract.md, Uniformity, an inference of the spec: '[derived: from rules R101 to R107 and ...]'). `GERRW` needs a mask or a word without bit 30 (log entry 7). -/
def Obligations.AccessorsAgreeAcrossKinds : Prop :=
  ∀ (s : State) (fd fs : SlotNo) (c : ClassicFrame), s.slot fs = .classic c →
    ∃ t, exec (.widen fd fs) s = .next t ∧
      responseOf (exec (.graw fd) t) = responseOf (exec (.graw fs) s) ∧
      responseOf (exec (.gsid fd) t) = responseOf (exec (.gsid fs) s) ∧
      responseOf (exec (.glen fd) t) = responseOf (exec (.glen fs) s) ∧
      (s.cfg.errMask.getLsbD 30 = false ∨ c.idw.getLsbD 30 = false →
        responseOf (exec (.gerrw fd) t) = responseOf (exec (.gerrw fs) s)) ∧
      responseOf (exec (.giserr fd) t) = responseOf (exec (.giserr fs) s) ∧
      responseOf (exec (.gisext fd) t) = responseOf (exec (.gisext fs) s) ∧
      responseOf (exec (.gidw fd) t) = some ⟨.ok, withoutRtr c.idw, []⟩

/-- 43_frame_contract.md R112: `DECERR` hands the tag code and the image `SER` would return to the collaborator and returns
its answer, whatever `ERR_FLAG` is. The collaborator is uninterpreted: the statement holds for every value it can have. -/
def Obligations.DecerrDelegates : Prop :=
  ∀ (s : State) (fs : SlotNo),
    (s.slot fs ≠ .empty → ∃ r, responseOf (exec (.ser fs) s) = some r ∧
      Answers (exec (.decerr fs) s) s
        (match Config.errDecode (s.slot fs).tagCode r.bytes with
          | some _ => .ok
          | none => .decodeFail)
        (match Config.errDecode (s.slot fs).tagCode r.bytes with
          | some d => d
          | none => 0) [] s.slot) ∧
    (s.slot fs = .empty → Answers (exec (.decerr fs) s) s .eKind 0 [] s.slot)

/-! ## Frame union and conversions -/

/-- 44_union_conversions.md R121: the FD frame `WIDEN` makes, `fd = fs` included. -/
def Obligations.WidenResult : Prop :=
  ∀ (s : State) (fd fs : SlotNo),
    (∀ c, s.slot fs = .classic c →
      Answers (exec (.widen fd fs) s) s .ok 0 []
        (slotsWith s fd (.fd ⟨withoutRtr c.idw, c.len, 0,
          Vector.ofFn fun k : Fin 64 => if h : k.val < 8 then c.data[k.val] else 0⟩))) ∧
    ((∀ c, s.slot fs ≠ .classic c) → Answers (exec (.widen fd fs) s) s .eKind 0 [] s.slot)

/-- 44_union_conversions.md R122: the classic frame `NARROW` makes when `len` is at most 8, `fd = fs` included; it fails with
`TOO_MUCH_DATA` above 8, whatever the bytes. -/
def Obligations.NarrowResult : Prop :=
  ∀ (s : State) (fd fs : SlotNo),
    (∀ f, s.slot fs = .fd f → f.len.toNat ≤ 8 →
      Answers (exec (.narrow fd fs) s) s .ok 0 []
        (slotsWith s fd (.classic ⟨withoutRtr f.idw, f.len,
          Vector.ofFn fun k : Fin 8 => if k.val < f.len.toNat then f.data[k.val] else 0⟩))) ∧
    (∀ f, s.slot fs = .fd f → 8 < f.len.toNat →
      Answers (exec (.narrow fd fs) s) s .tooMuchData 0 [] s.slot) ∧
    ((∀ f, s.slot fs ≠ .fd f) → Answers (exec (.narrow fd fs) s) s .eKind 0 [] s.slot)

/-- 44_union_conversions.md R123, R124: `FMOV` copies the whole slot value, `FCLR` empties a slot of any tag. -/
def Obligations.CopyAndClear : Prop :=
  ∀ (s : State) (fd fs : SlotNo),
    (s.slot fs ≠ .empty → Answers (exec (.fmov fd fs) s) s .ok 0 [] (slotsWith s fd (s.slot fs))) ∧
    (s.slot fs = .empty → Answers (exec (.fmov fd fs) s) s .eKind 0 [] s.slot) ∧
    Answers (exec (.fclr fd) s) s .ok 0 [] (slotsWith s fd .empty)

/-- 44_union_conversions.md R125 with 10_state.md R24: `FEQ` decides semantic equality of two frames. -/
def Obligations.FeqDecidesSemanticEquality : Prop :=
  ∀ (s : State) (fs ft : SlotNo),
    (s.slot fs ≠ .empty → s.slot ft ≠ .empty → SemEq (s.slot fs) (s.slot ft) →
      Answers (exec (.feq fs ft) s) s .ok 1 [] s.slot) ∧
    (s.slot fs ≠ .empty → s.slot ft ≠ .empty → ¬ SemEq (s.slot fs) (s.slot ft) →
      Answers (exec (.feq fs ft) s) s .ok 0 [] s.slot) ∧
    (s.slot fs = .empty ∨ s.slot ft = .empty → Answers (exec (.feq fs ft) s) s .eKind 0 [] s.slot)

/-- The relation `FEQ` computes is reflexive on frames, symmetric and transitive (44_union_conversions.md, FEQ, corner
cases, an inference of the spec: '[derived: from 10_state.md rule R24]'). -/
def Obligations.FeqIsAnEquivalence : Prop :=
  (∀ a : Slot, a ≠ .empty → a.semEq a = true) ∧ (∀ a b : Slot, a.semEq b = true → b.semEq a = true) ∧
    ∀ a b c : Slot, a.semEq b = true → b.semEq c = true → a.semEq c = true

/-- The round trips through the two conversions, laws (a) to (d) of 44_union_conversions.md, for slots that meet the
invariants; an inference of the spec ('[derived: from rules R121 and R122]'). -/
def Obligations.ConversionRoundTrips : Prop :=
  (∀ (s : State) (fd gd fs : SlotNo) (c : ClassicFrame), s.slot fs = .classic c → c.len.toNat ≤ 8 →
    ∃ t u d, exec (.widen fd fs) s = .next t ∧ exec (.narrow gd fd) t = .next u ∧
      responseOf (exec (.narrow gd fd) t) = some ⟨.ok, 0, []⟩ ∧ u.slot gd = .classic d ∧
      (c.idw.getLsbD 30 = false → SemEq (.classic c) (.classic d) ∧ (zeroTail (.classic c) → d = c)) ∧
      (c.idw.getLsbD 30 = true → SemEq (.classic { c with idw := withoutRtr c.idw }) (.classic d) ∧
        (zeroTail (.classic c) → d = { c with idw := withoutRtr c.idw }) ∧ ¬ SemEq (.classic c) (.classic d))) ∧
  (∀ (s : State) (fd fs : SlotNo) (f : FdFrame), s.slot fs = .fd f → 8 < f.len.toNat →
    Answers (exec (.narrow fd fs) s) s .tooMuchData 0 [] s.slot) ∧
  ∀ (s : State) (fd gd fs : SlotNo) (f : FdFrame), s.slot fs = .fd f → slotWf (.fd f) = true → f.len.toNat ≤ 8 →
    ∃ t u g, exec (.narrow fd fs) s = .next t ∧ exec (.widen gd fd) t = .next u ∧
      responseOf (exec (.widen gd fd) t) = some ⟨.ok, 0, []⟩ ∧ u.slot gd = .fd g ∧
      g.idw = f.idw ∧ g.len = f.len ∧ g.flags = 0 ∧
      ∀ k : Fin 64, g.data[k] = if k.val < f.len.toNat then f.data[k] else 0

/-! ## Raw images -/

/-- 45_raw_image.md R131: `SER` returns the image of the frame, laid out field by field at the parameters, and its length. -/
def Obligations.SerReturnsTheImage : Prop :=
  ∀ (s : State) (fs : SlotNo), s.cfg.wf = true →
    (∀ c, s.slot fs = .classic c → ∃ img, isClassicImage s.cfg c img ∧
      Answers (exec (.ser fs) s) s .ok (BitVec.ofNat 32 s.cfg.classicImageSize) img s.slot) ∧
    (∀ f, s.slot fs = .fd f → ∃ img, isFdImage s.cfg f img ∧
      Answers (exec (.ser fs) s) s .ok (BitVec.ofNat 32 s.cfg.fdImageSize) img s.slot) ∧
    (s.slot fs = .empty → Answers (exec (.ser fs) s) s .eKind 0 [] s.slot)

/-- 45_raw_image.md R132: the two outcomes of `DESC` and the whole slot it writes. -/
def Obligations.DescResult : Prop :=
  ∀ (s : State) (fd : SlotNo),
    ((s.port.dinByte 4).toNat ≤ 8 →
      Answers (exec (.desc fd) s) s .ok 0 []
        (slotsWith s fd (.classic ⟨imageWordOf s.cfg.imageEndian s.port, s.port.dinByte 4,
          imageBuffer 8 s.cfg.classicDataOffset s.port⟩))) ∧
    (8 < (s.port.dinByte 4).toNat → Answers (exec (.desc fd) s) s .tooMuchData 0 [] s.slot)

/-- 45_raw_image.md R133: the three outcomes of `DESF` and the whole slot it writes. -/
def Obligations.DesfResult : Prop :=
  ∀ (s : State) (fd : SlotNo),
    ((s.port.dinByte 4).toNat ≤ 64 → (imageWordOf s.cfg.imageEndian s.port).getLsbD 30 = false →
      Answers (exec (.desf fd) s) s .ok 0 []
        (slotsWith s fd (.fd ⟨imageWordOf s.cfg.imageEndian s.port, s.port.dinByte 4, s.port.dinByte 5,
          imageBuffer 64 s.cfg.fdDataOffset s.port⟩))) ∧
    (64 < (s.port.dinByte 4).toNat → Answers (exec (.desf fd) s) s .tooMuchData 0 [] s.slot) ∧
    ((s.port.dinByte 4).toNat ≤ 64 → (imageWordOf s.cfg.imageEndian s.port).getLsbD 30 = true →
      Answers (exec (.desf fd) s) s .eFormat 0 [] s.slot)

/-- The laws (a) to (d) of the image commands, 45_raw_image.md, an inference of the spec ('[derived: from rules R130 to
R133]'): loading the image `SER` returns gives the slot back, field for field, whoever
built it; `SER` after `DESC` or `DESF` returns the loaded image with its padding zeroed; `image` is injective on each kind. -/
def Obligations.ImageRoundTrips : Prop :=
  (∀ (s u : State) (fs fd : SlotNo) (r : Response), u.cfg = s.cfg → s.cfg.wf = true → slotWf (s.slot fs) = true →
    s.slot fs ≠ .empty → responseOf (exec (.ser fs) s) = some r →
    (∀ k, k < r.bytes.length → u.port.din[k]? = r.bytes[k]?) →
      ((s.slot fs).tagCode = 1 → Answers (exec (.desc fd) u) u .ok 0 [] (slotsWith u fd (s.slot fs))) ∧
      ((s.slot fs).tagCode = 2 → Answers (exec (.desf fd) u) u .ok 0 [] (slotsWith u fd (s.slot fs)))) ∧
  (∀ (s : State) (fd : SlotNo), s.cfg.wf = true → (s.port.dinByte 4).toNat ≤ 8 →
    ∃ t r, exec (.desc fd) s = .next t ∧ responseOf (exec (.ser fd) t) = some r ∧
      r.bytes.length = s.cfg.classicImageSize ∧
      ∀ k, k < s.cfg.classicImageSize → r.bytes[k]? = some (
        if k < 5 ∨ (s.cfg.classicDataOffset ≤ k ∧ k < s.cfg.classicDataOffset + 8) then s.port.dinByte k else 0)) ∧
  (∀ (s : State) (fd : SlotNo), s.cfg.wf = true → (s.port.dinByte 4).toNat ≤ 64 →
    (imageWordOf s.cfg.imageEndian s.port).getLsbD 30 = false →
    ∃ t r, exec (.desf fd) s = .next t ∧ responseOf (exec (.ser fd) t) = some r ∧
      r.bytes.length = s.cfg.fdImageSize ∧
      ∀ k, k < s.cfg.fdImageSize → r.bytes[k]? = some (
        if k < 6 ∨ (s.cfg.fdDataOffset ≤ k ∧ k < s.cfg.fdDataOffset + 64) then s.port.dinByte k else 0)) ∧
  (∀ (cfg : Config) (a b : ClassicFrame), classicImage cfg a = classicImage cfg b → a = b) ∧
  ∀ (cfg : Config) (a b : FdFrame), fdImage cfg a = fdImage cfg b → a = b

/-! ## Text rendering -/

/-- 46_text_rendering.md R141: the text of a frame is the whole identifier word as a hexadecimal numeral, `#`, and the
payload; of an FD frame the numeral, `##`, the flags byte as a decimal numeral, a space, and the payload. -/
def Obligations.RendReturnsTheText : Prop :=
  ∀ (s : State) (fs : SlotNo),
    (∀ c, s.slot fs = .classic c → slotWf (s.slot fs) = true → ∃ hx text, isNumeral 16 c.idw.toNat hx ∧
      text = hx ++ [0x23#8] ++ textOfPayload (separator s.cfg.renderSep) (c.data.toList.take c.len.toNat) ∧
      Answers (exec (.rend fs) s) s .ok (BitVec.ofNat 32 text.length) text s.slot) ∧
    (∀ f, s.slot fs = .fd f → slotWf (s.slot fs) = true → ∃ hx dc text, isNumeral 16 f.idw.toNat hx ∧
      isNumeral 10 f.flags.toNat dc ∧
      text = hx ++ [0x23#8, 0x23#8] ++ dc ++ [0x20#8] ++
        textOfPayload (separator s.cfg.renderSep) (f.data.toList.take f.len.toNat) ∧
      Answers (exec (.rend fs) s) s .ok (BitVec.ofNat 32 text.length) text s.slot) ∧
    (s.slot fs = .empty → Answers (exec (.rend fs) s) s .eKind 0 [] s.slot)

/-- The length of a text, and its bounds: 46_text_rendering.md, 'Length of the text', an inference of the spec ('[derived:
from rule R141]'). -/
def Obligations.TextLength : Prop :=
  ∀ (sep : RenderSep),
    (∀ c : ClassicFrame, slotWf (.classic c) = true →
      ((Slot.classic c).text sep).length = digitCount 16 c.idw.toNat + 1 + 2 * c.len.toNat +
        (match sep with | .space => 1 | .none => 0) * (c.len.toNat - 1) ∧
      2 ≤ ((Slot.classic c).text sep).length ∧ ((Slot.classic c).text sep).length ≤ 32) ∧
    ∀ f : FdFrame, slotWf (.fd f) = true →
      ((Slot.fd f).text sep).length = digitCount 16 f.idw.toNat + 2 + digitCount 10 f.flags.toNat + 1 +
        2 * f.len.toNat + (match sep with | .space => 1 | .none => 0) * (f.len.toNat - 1) ∧
      5 ≤ ((Slot.fd f).text sep).length ∧ ((Slot.fd f).text sep).length ≤ 205

/-- 46_text_rendering.md, 'The two templates never collide', an inference of the spec ('[derived: from rule R141 and
decision D16]'): a classic text has exactly one `#` and an FD text exactly two, adjacent; two frames of one
kind render the same text exactly when they are semantically equal. -/
def Obligations.TextDeterminesTheFrame : Prop :=
  ∀ sep : RenderSep,
    (∀ c : ClassicFrame, ((Slot.classic c).text sep).count 0x23#8 = 1) ∧
    (∀ f : FdFrame, ((Slot.fd f).text sep).count 0x23#8 = 2 ∧
      ∃ a b, (Slot.fd f).text sep = a ++ [0x23#8, 0x23#8] ++ b) ∧
    (∀ a b : ClassicFrame, slotWf (.classic a) = true → slotWf (.classic b) = true →
      ((Slot.classic a).text sep = (Slot.classic b).text sep ↔ SemEq (.classic a) (.classic b))) ∧
    ∀ a b : FdFrame, slotWf (.fd a) = true → slotWf (.fd b) = true →
      ((Slot.fd a).text sep = (Slot.fd b).text sep ↔ SemEq (.fd a) (.fd b))
end

