-- ==== Sys2Proof/Laws/State.lean ====
section
/-! SUPPORT. One lemma per field and update of `State`, and the laws of the slot file, so that no later proof unfolds a
record update. -/

namespace Sys2Proof.Machine

variable (s : State) (i k : SlotNo) (v w : Slot) (st : StatusCode) (val : Word) (bytes : List Byte)
  (c : Command) (rest : List HostEvent)

/-! ## The slot file -/

@[simp] theorem State.slot_setSlot : (s.setSlot i v).slot k = if k = i then v else s.slot k := by
  simp only [State.slot, State.setSlot, Fin.getElem_fin, Vector.getElem_set, Fin.ext_iff, eq_comm]

theorem State.slot_setSlot_same : (s.setSlot i v).slot i = v := by simp

theorem State.slot_setSlot_ne (h : k ≠ i) : (s.setSlot i v).slot k = s.slot k := by simp [h]

/-- Two states' slot files are equal when every slot reads the same. -/
theorem State.slots_eq_of_slot {a b : State} (h : ∀ k, a.slot k = b.slot k) : a.slots = b.slots := by
  apply Vector.ext
  intro n hn
  exact h ⟨n, hn⟩

@[simp] theorem State.setSlot_setSlot : (s.setSlot i v).setSlot i w = s.setSlot i w := by
  simp [State.setSlot]

@[simp] theorem State.setSlot_status : (s.setSlot i v).status = s.status := rfl
@[simp] theorem State.setSlot_port : (s.setSlot i v).port = s.port := rfl
@[simp] theorem State.setSlot_rsp : (s.setSlot i v).rsp = s.rsp := rfl
@[simp] theorem State.setSlot_stream : (s.setSlot i v).stream = s.stream := rfl
@[simp] theorem State.setSlot_cfg : (s.setSlot i v).cfg = s.cfg := rfl

/-! ## Responding without recording -/

@[simp] theorem State.respond_slot : (s.respond st val bytes).slot k = s.slot k := rfl
@[simp] theorem State.respond_slots : (s.respond st val bytes).slots = s.slots := rfl
@[simp] theorem State.respond_status : (s.respond st val bytes).status = s.status := rfl
@[simp] theorem State.respond_port : (s.respond st val bytes).port = s.port := rfl
@[simp] theorem State.respond_rsp : (s.respond st val bytes).rsp = some ⟨st, val, bytes⟩ := rfl
@[simp] theorem State.respond_stream : (s.respond st val bytes).stream = s.stream := rfl
@[simp] theorem State.respond_cfg : (s.respond st val bytes).cfg = s.cfg := rfl

/-! ## Completing -/

@[simp] theorem State.complete_slot : (s.complete st val bytes).slot k = s.slot k := rfl
@[simp] theorem State.complete_slots : (s.complete st val bytes).slots = s.slots := rfl
@[simp] theorem State.complete_status : (s.complete st val bytes).status = s.status.record st := rfl
@[simp] theorem State.complete_port : (s.complete st val bytes).port = s.port := rfl
@[simp] theorem State.complete_rsp : (s.complete st val bytes).rsp = some ⟨st, val, bytes⟩ := rfl
@[simp] theorem State.complete_stream : (s.complete st val bytes).stream = s.stream := rfl
@[simp] theorem State.complete_cfg : (s.complete st val bytes).cfg = s.cfg := rfl

@[simp] theorem Status.record_last (x : Status) : (x.record st).last = st := rfl
@[simp] theorem Status.record_sticky (x : Status) : (x.record st).sticky = (x.sticky || st != .ok) := rfl
@[simp] theorem Status.clear_last : Status.clear.last = .ok := rfl
@[simp] theorem Status.clear_sticky : Status.clear.sticky = false := rfl

/-! ## Taking an event -/

@[simp] theorem State.present_slot : (s.present c rest).slot k = s.slot k := rfl
@[simp] theorem State.present_slots : (s.present c rest).slots = s.slots := rfl
@[simp] theorem State.present_status : (s.present c rest).status = s.status := rfl
@[simp] theorem State.present_port : (s.present c rest).port = c := rfl
@[simp] theorem State.present_rsp : (s.present c rest).rsp = s.rsp := rfl
@[simp] theorem State.present_stream : (s.present c rest).stream = rest := rfl
@[simp] theorem State.present_cfg : (s.present c rest).cfg = s.cfg := rfl

@[simp] theorem State.reset_slot : State.reset.slot k = .empty := by
  simp [State.slot, State.reset]

@[simp] theorem State.applyReset_slot : (s.applyReset rest).slot k = .empty := State.reset_slot k
@[simp] theorem State.applyReset_status : (s.applyReset rest).status = Status.clear := rfl
@[simp] theorem State.applyReset_rsp : (s.applyReset rest).rsp = none := rfl
@[simp] theorem State.applyReset_stream : (s.applyReset rest).stream = rest := rfl
@[simp] theorem State.applyReset_cfg : (s.applyReset rest).cfg = s.cfg := rfl

@[simp] theorem State.pushWord_slots (x : Word) : (s.pushWord x).slots = s.slots := rfl
@[simp] theorem State.pushWord_stream (x : Word) :
    (s.pushWord x).stream = .command (Command.ofWord x) :: s.stream := rfl

end Sys2Proof.Machine
end

