-- ==== Sys2Proof/Laws/Ops.lean ====
section
/-! SUPPORT. One lemma per shared operation that says everything it can do; proofs about a command cite these and never
unfold the operation. The forms with `Answers` (Safety.lean) carry the command's frame with them. -/

namespace Sys2Proof.Machine

open Sys2Proof.Safety

theorem status_bne_ok (c : StatusCode) : (c != .ok) = decide (c ≠ .ok) := by cases c <;> rfl

/-! ## Completing -/

/-- A completion that writes no slot. -/
theorem answers_complete (s : State) (c : StatusCode) (val : Word) (bytes : List Byte) :
    Answers (.next (s.complete c val bytes)) s c val bytes s.slot :=
  ⟨_, rfl, rfl, rfl, by simp [status_bne_ok], fun _ => rfl, rfl, rfl, rfl⟩

/-- `State.ok` answers `OK` with its value and bytes and writes no slot. -/
theorem answers_ok (s : State) (val : Word) (bytes : List Byte) :
    Answers (s.ok val bytes) s .ok val bytes s.slot := answers_complete s .ok val bytes

/-- `State.okBytes` answers `OK` with the bytes and their number and writes no slot. -/
theorem answers_okBytes (s : State) (bytes : List Byte) :
    Answers (s.okBytes bytes) s .ok (BitVec.ofNat 32 bytes.length) bytes s.slot :=
  answers_complete s .ok _ bytes

/-- `State.fail` answers its code with no value and no bytes and writes no slot (60_exceptions.md R163). -/
theorem answers_fail (s : State) (c : StatusCode) : Answers (s.fail c) s c 0 [] s.slot :=
  answers_complete s c 0 []

/-- `State.okWrite` answers `OK` and writes the one slot. -/
theorem answers_okWrite (s : State) (fd : SlotNo) (v : Slot) :
    Answers (s.okWrite fd v) s .ok 0 [] (slotsWith s fd v) :=
  ⟨_, rfl, rfl, rfl, by simp, fun k => by simp [slotsWith], rfl, rfl, rfl⟩

end Sys2Proof.Machine

namespace Sys2Proof.Safety

open Sys2Proof.Machine

variable {s t : State} {o : Host.Outcome State Fault Refusal}

/-- What an outcome that answers gives when it is a known next state. -/
theorem Answers.of_next {c : StatusCode} {val : Word} {bytes : List Byte} {slots : SlotNo → Slot}
    (h : Answers o s c val bytes slots) (ht : o = .next t) :
    t.rsp = some ⟨c, val, bytes⟩ ∧ t.status = ⟨c, s.status.sticky || decide (c ≠ .ok)⟩ ∧
      (∀ k, t.slot k = slots k) ∧ t.port = s.port ∧ t.stream = s.stream ∧ t.cfg = s.cfg := by
  obtain ⟨u, hu, hr, hl, hst, hsl, hp, hs, hc⟩ := h
  obtain rfl : u = t := by rw [hu] at ht; injection ht
  refine ⟨hr, ?_, hsl, hp, hs, hc⟩
  cases hq : u.status with
  | mk last sticky => rw [hq] at hl hst; simp_all

/-- The response of an outcome that answers. -/
theorem Answers.response {c : StatusCode} {val : Word} {bytes : List Byte} {slots : SlotNo → Slot}
    (h : Answers o s c val bytes slots) : responseOf o = some ⟨c, val, bytes⟩ := by
  obtain ⟨u, rfl, hr, _⟩ := h
  exact hr

end Sys2Proof.Safety

namespace Sys2Proof.Machine

open Sys2Proof.Safety

/-! ## Tag checks -/

/-- `withHeader`: `E_KIND` on an `EMPTY` slot, else the continuation on (`idw`, `len`). -/
theorem withHeader_cases (s : State) (fs : SlotNo) (k : Header → Host.Outcome State Fault Refusal) :
    ((s.slot fs).header = none ∧ s.withHeader fs k = s.fail .eKind) ∨
      ∃ h, (s.slot fs).header = some h ∧ s.withHeader fs k = k h := by
  unfold State.withHeader
  split <;> simp_all

/-- `withFrame`: `E_KIND` on an `EMPTY` slot, else the continuation on the slot value. -/
theorem withFrame_cases (s : State) (fs : SlotNo) (k : Slot → Host.Outcome State Fault Refusal) :
    (s.slot fs = .empty ∧ s.withFrame fs k = s.fail .eKind) ∨
      (s.slot fs ≠ .empty ∧ s.withFrame fs k = k (s.slot fs)) := by
  unfold State.withFrame
  split <;> simp_all

/-- `withClassic`: the continuation on a `CLASSIC` slot, else `E_KIND`. -/
theorem withClassic_cases (s : State) (fs : SlotNo) (k : ClassicFrame → Host.Outcome State Fault Refusal) :
    (∃ f, s.slot fs = .classic f ∧ s.withClassic fs k = k f) ∨
      ((∀ f, s.slot fs ≠ .classic f) ∧ s.withClassic fs k = s.fail .eKind) := by
  unfold State.withClassic
  split <;> simp_all

/-- `withFd`: the continuation on an `FD` slot, else `E_KIND`. -/
theorem withFd_cases (s : State) (fs : SlotNo) (k : FdFrame → Host.Outcome State Fault Refusal) :
    (∃ f, s.slot fs = .fd f ∧ s.withFd fs k = k f) ∨
      ((∀ f, s.slot fs ≠ .fd f) ∧ s.withFd fs k = s.fail .eKind) := by
  unfold State.withFd
  split <;> simp_all

/-! ## Constructors -/

/-- `packId` refuses exactly the ids above 29 bits. -/
theorem packId_eq_none_iff (id : Word) (e r x : Bool) : packId id e r x = none ↔ 0x1FFFFFFF < id.toNat := by
  unfold packId
  split <;> simp_all [effMask, BitVec.lt_def]

/-- `construct`: the length check, then the identifier check, then the slot written whole (41_classic_frame.md R80). -/
theorem construct_cases (s : State) (fd : SlotNo) (n : Nat) (e r x : Bool) (build : Word → Slot) :
    (n < s.port.dlen.toNat ∧ s.construct fd n e r x build = s.fail .tooMuchData) ∨
      (s.port.dlen.toNat ≤ n ∧ packId s.port.arg e r x = none ∧
        s.construct fd n e r x build = s.fail .idTooLarge) ∨
      ∃ w, s.port.dlen.toNat ≤ n ∧ packId s.port.arg e r x = some w ∧
        s.construct fd n e r x build = s.okWrite fd (build w) := by
  unfold State.construct
  by_cases h : n < s.port.dlen.toNat
  · exact .inl ⟨h, by simp [h]⟩
  · right
    have hle : s.port.dlen.toNat ≤ n := Nat.le_of_not_lt h
    cases hp : packId s.port.arg e r x with
    | none => exact .inl ⟨hle, rfl, by simp [h]⟩
    | some w => exact .inr ⟨w, hle, rfl, by simp [h]⟩

/-! ## Taking an event -/

/-- `take`: wait, reset, or present the command at the head of the stream. -/
theorem take_cases (s : State) :
    (s.stream = [] ∧ s.take = .idle) ∨
      (∃ rest, s.stream = .reset :: rest ∧ s.take = .wasReset (s.applyReset rest)) ∨
      ∃ c rest, s.stream = .command c :: rest ∧ s.take = .command c.cw (s.present c rest) := by
  unfold State.take
  split <;> simp_all

/-! ## Buffers -/

@[simp] theorem zeroFilled_getElem (n len : Nat) (f : Nat → Byte) (k : Nat) (h : k < n) :
    (zeroFilled n len f)[k] = if k < len then f k else 0 := by
  simp [zeroFilled]

@[simp] theorem filled_getElem (n : Nat) (f : Nat → Byte) (k : Nat) (h : k < n) : (filled n f)[k] = f k := by
  simp [filled]

theorem bufByte_of_lt {n : Nat} (data : Vector Byte n) {k : Nat} (h : k < n) : bufByte data k = data[k] := by
  simp [bufByte, h]

end Sys2Proof.Machine
end

