-- ==== Sys2Proof/Laws/Exec.lean ====
section
/-! SUPPORT. The inversion lemma of `exec`: what any command can do, said once; the rules over all commands follow from it
without unfolding a meaning again. -/

namespace Sys2Proof.Machine

open Sys2Proof.Safety

/-- The outcome of a command that is no system command: it answers, and either writes no slot, with neither value nor bytes
when its code is not `OK`, or completes `OK` and writes the one slot that `writes` names (60_exceptions.md R163, 10_state.md
R13, R16). -/
def CompletesOnce (i : Instr) (s : State) (o : Host.Outcome State Fault Refusal) : Prop :=
  ∃ c val bytes slots, Answers o s c val bytes slots ∧
    (slots = s.slot ∧ (c ≠ .ok → val = 0 ∧ bytes = []) ∨
      ∃ fd v, writes i = some fd ∧ slots = slotsWith s fd v ∧ c = .ok)

variable {i : Instr} {s : State}

theorem completesOnce_ok (val : Word) (bytes : List Byte) : CompletesOnce i s (s.ok val bytes) :=
  ⟨_, _, _, _, answers_ok s val bytes, .inl ⟨rfl, by simp⟩⟩

theorem completesOnce_fail (c : StatusCode) : CompletesOnce i s (s.fail c) :=
  ⟨_, _, _, _, answers_fail s c, .inl ⟨rfl, fun _ => ⟨rfl, rfl⟩⟩⟩

theorem completesOnce_okWrite (fd : SlotNo) (v : Slot) (h : writes i = some fd) : CompletesOnce i s (s.okWrite fd v) :=
  ⟨_, _, _, _, answers_okWrite s fd v, .inr ⟨fd, v, h, rfl, rfl⟩⟩

theorem completesOnce_withHeader (fs : SlotNo) (k : Header → Host.Outcome State Fault Refusal)
    (hk : ∀ h, CompletesOnce i s (k h)) : CompletesOnce i s (s.withHeader fs k) := by
  rcases withHeader_cases s fs k with ⟨_, h⟩ | ⟨x, _, h⟩ <;> rw [h]
  exacts [completesOnce_fail _, hk x]

theorem completesOnce_withFrame (fs : SlotNo) (k : Slot → Host.Outcome State Fault Refusal)
    (hk : ∀ v, CompletesOnce i s (k v)) : CompletesOnce i s (s.withFrame fs k) := by
  rcases withFrame_cases s fs k with ⟨_, h⟩ | ⟨_, h⟩ <;> rw [h]
  exacts [completesOnce_fail _, hk _]

theorem completesOnce_withClassic (fs : SlotNo) (k : ClassicFrame → Host.Outcome State Fault Refusal)
    (hk : ∀ f, CompletesOnce i s (k f)) : CompletesOnce i s (s.withClassic fs k) := by
  rcases withClassic_cases s fs k with ⟨f, _, h⟩ | ⟨_, h⟩ <;> rw [h]
  exacts [hk f, completesOnce_fail _]

theorem completesOnce_withFd (fs : SlotNo) (k : FdFrame → Host.Outcome State Fault Refusal)
    (hk : ∀ f, CompletesOnce i s (k f)) : CompletesOnce i s (s.withFd fs k) := by
  rcases withFd_cases s fs k with ⟨f, _, h⟩ | ⟨_, h⟩ <;> rw [h]
  exacts [hk f, completesOnce_fail _]

theorem completesOnce_construct (fd : SlotNo) (n : Nat) (e r x : Bool) (build : Word → Slot) (hw : writes i = some fd) :
    CompletesOnce i s (s.construct fd n e r x build) := by
  rcases construct_cases s fd n e r x build with ⟨_, h⟩ | ⟨_, _, h⟩ | ⟨w, _, _, h⟩ <;> rw [h]
  exacts [completesOnce_fail _, completesOnce_fail _, completesOnce_okWrite _ _ hw]

/-- What every command but the three system commands does. -/
theorem exec_completesOnce (i : Instr) (s : State) (h : isSystem i = false) : CompletesOnce i s (exec i s) := by
  cases i with
  | nop | rdst | clrst => simp [isSystem] at h
  | idpack err rtr ext =>
    simp only [exec, execIdpack]
    split
    exacts [completesOnce_fail _, completesOnce_ok _ _]
  | idraw | idsem | idflg | gkind fs => exact completesOnce_ok _ _
  | cnew fd err rtr ext => exact completesOnce_construct fd _ _ _ _ _ rfl
  | crtr fd => exact completesOnce_construct fd _ _ _ _ _ rfl
  | fnew fd esi brs err ext => exact completesOnce_construct fd _ _ _ _ _ rfl
  | frtr fd => exact completesOnce_fail _
  | fsbrs fs on | fsesi fs on => exact completesOnce_withFd fs _ fun _ => completesOnce_okWrite _ _ rfl
  | fgbrs fs | fgesi fs | fgflg fs => exact completesOnce_withFd fs _ fun _ => completesOnce_ok _ _
  | gidw fs | graw fs | gsid fs | glen fs | gerrw fs | giserr fs | gisext fs | gdata fs =>
    exact completesOnce_withHeader fs _ fun _ => completesOnce_ok _ _
  | gisrtr fs | ser fs | rend fs =>
    simp only [exec, execGisrtr, execSer, execRend, State.okBytes]
    exact completesOnce_withFrame fs _ fun _ => completesOnce_ok _ _
  | decerr fs =>
    simp only [exec, execDecerr, decerrWith]
    refine completesOnce_withFrame fs _ fun v => ?_
    split
    exacts [completesOnce_ok _ _, completesOnce_fail _]
  | widen fd fs => exact completesOnce_withClassic fs _ fun _ => completesOnce_okWrite _ _ rfl
  | narrow fd fs =>
    refine completesOnce_withFd fs _ fun f => ?_
    split
    exacts [completesOnce_fail _, completesOnce_okWrite _ _ rfl]
  | fmov fd fs => exact completesOnce_withFrame fs _ fun _ => completesOnce_okWrite _ _ rfl
  | fclr fd => exact completesOnce_okWrite _ _ rfl
  | feq fs ft =>
    simp only [exec, execFeq]
    exact completesOnce_withFrame fs _ fun _ => completesOnce_withFrame ft _ fun _ => completesOnce_ok _ _
  | desc fd =>
    simp only [exec, execDesc]
    split
    exacts [completesOnce_fail _, completesOnce_okWrite _ _ rfl]
  | desf fd =>
    simp only [exec, execDesf]
    split
    · exact completesOnce_fail _
    split
    exacts [completesOnce_fail _, completesOnce_okWrite _ _ rfl]

/-- The three system commands respond `OK` and write no slot (47_system.md R150). -/
theorem exec_system (i : Instr) (s : State) (h : isSystem i = true) :
    ∃ x val, exec i s = .next { s with status := x, rsp := some ⟨.ok, val, []⟩ } := by
  cases i <;> simp only [isSystem, Bool.false_eq_true] at h
  all_goals exact ⟨_, _, rfl⟩

end Sys2Proof.Machine
end

