-- ==== Sys2Proof/Laws/Image.lean ====
section
/-! SUPPORT. Frame images: `word_of` is the inverse of `word_bytes`, the loaded word is the reference word of Safety.lean,
and the size of every image. -/

namespace Sys2Proof.Machine

open Sys2Proof.Safety

/-- Four bytes joined, the first one the most significant, by byte weights. -/
theorem toNat_joinBytes (a b c d : Byte) :
    (((a ++ b) ++ c) ++ d : Word).toNat = d.toNat + c.toNat * 2 ^ 8 + b.toNat * 2 ^ 16 + a.toNat * 2 ^ 24 := by
  have ha := a.isLt
  have hb := b.isLt
  have hc := c.isLt
  have hd := d.isLt
  have h : ∀ (x : Nat) (y : Byte), x <<< 8 ||| y.toNat = 256 * x + y.toNat := by
    intro x y
    rw [Nat.shiftLeft_eq, Nat.mul_comm, ← Nat.two_pow_add_eq_or_of_lt y.isLt]
  have h2 : (a ++ b).toNat = 256 * a.toNat + b.toNat := (BitVec.toNat_append a b).trans (h _ _)
  have h3 : ((a ++ b) ++ c).toNat = 256 * (a ++ b).toNat + c.toNat := (BitVec.toNat_append (a ++ b) c).trans (h _ _)
  have h4 : (((a ++ b) ++ c) ++ d).toNat = 256 * ((a ++ b) ++ c).toNat + d.toNat :=
    (BitVec.toNat_append ((a ++ b) ++ c) d).trans (h _ _)
  refine Eq.trans h4 ?_
  omega

/-- `word_of`, by byte weights (20_memory.md R32). -/
theorem imageWord_eq (e : Endian) (p : Command) : p.imageWord e = imageWordOf e p := by
  cases e <;> apply BitVec.eq_of_toNat_eq <;> simp only [Command.imageWord, wordOf, imageWordOf, BitVec.toNat_ofNat]
  · have h := toNat_joinBytes (p.dinByte 3) (p.dinByte 2) (p.dinByte 1) (p.dinByte 0)
    refine Eq.trans h (Nat.mod_eq_of_lt ?_).symm
    rw [← h]
    exact BitVec.isLt _
  · have h := toNat_joinBytes (p.dinByte 0) (p.dinByte 1) (p.dinByte 2) (p.dinByte 3)
    refine Eq.trans h (Nat.mod_eq_of_lt ?_).symm
    rw [← h]
    exact BitVec.isLt _

/-- Byte `k` of `word_bytes`, the reference byte of Safety.lean. -/
theorem wordBytes_getElem? (e : Endian) (w : Word) (k : Nat) (hk : k < 4) :
    (wordBytes e w)[k]? = some (imageWordByte e w k) := by
  rcases (by omega : k = 0 ∨ k = 1 ∨ k = 2 ∨ k = 3) with rfl | rfl | rfl | rfl <;> cases e <;> rfl

@[simp] theorem wordBytes_length (e : Endian) (w : Word) : (wordBytes e w).length = 4 := by cases e <;> rfl

/-- The bytes of a word joined give the word back (45_raw_image.md R130). -/
theorem joinBytes_extract (w : Word) :
    (((w.extractLsb' 24 8 ++ w.extractLsb' 16 8) ++ w.extractLsb' 8 8) ++ w.extractLsb' 0 8 : Word) = w := by
  apply BitVec.eq_of_toNat_eq
  rw [toNat_joinBytes]
  simp only [BitVec.extractLsb'_toNat, Nat.shiftRight_eq_div_pow]
  have := w.isLt
  omega

/-- `word_of` is the inverse of `word_bytes` in either byte order. -/
theorem wordOf_bytes (e : Endian) (w : Word) :
    wordOf e (imageWordByte e w 0) (imageWordByte e w 1) (imageWordByte e w 2) (imageWordByte e w 3) = w := by
  cases e <;> exact joinBytes_extract w

@[simp] theorem padding_length (n : Nat) : (padding n).length = n := List.length_replicate

/-- The image of a classic frame has the size of the parameter. -/
theorem classicImage_length (cfg : Config) (f : ClassicFrame) (h : cfg.classicImageWf = true) :
    (classicImage cfg f).length = cfg.classicImageSize := by
  simp [Config.classicImageWf] at h
  simp [classicImage]
  omega

/-- The image of an FD frame has the size of the parameter. -/
theorem fdImage_length (cfg : Config) (f : FdFrame) (h : cfg.fdImageWf = true) :
    (fdImage cfg f).length = cfg.fdImageSize := by
  simp [Config.fdImageWf] at h
  simp [fdImage]
  omega

end Sys2Proof.Machine
end

