-- ==== Sys2Proof/Laws/PerInstr.lean ====
section
/-! SUPPORT. Statements made per command. `EncodesAsTableRow`: the encoded word of a command is an instance of exactly one
row of spec/opcode_table.json (30_encoding.md R55, R57), whatever its operands. -/

/-- The rows of the table of which the command's encoded word is an instance number exactly one. -/
def Sys2Proof.Laws.EncodesAsTableRow.Statement (i : Sys2Proof.Instr) : Prop :=
  (Sys2Proof.Safety.tableRows.filter fun row => Sys2Proof.encode i &&& row.1 == row.2).length = 1

namespace Sys2Proof.Laws.EncodesAsTableRow

theorem nop : Statement .nop := by
  unfold Statement; decide

theorem rdst : Statement .rdst := by
  unfold Statement; decide

theorem clrst : Statement .clrst := by
  unfold Statement; decide

theorem idpack (err : Bool) (rtr : Bool) (ext : Bool) : Statement (.idpack err rtr ext) := by
  unfold Statement; revert err rtr ext; decide

theorem idraw : Statement .idraw := by
  unfold Statement; decide

theorem idsem : Statement .idsem := by
  unfold Statement; decide

theorem idflg : Statement .idflg := by
  unfold Statement; decide

theorem cnew (fd : SlotNo) (err : Bool) (rtr : Bool) (ext : Bool) : Statement (.cnew fd err rtr ext) := by
  unfold Statement; revert fd err rtr ext; decide

theorem crtr (fd : SlotNo) : Statement (.crtr fd) := by
  unfold Statement; revert fd; decide

theorem fnew (fd : SlotNo) (esi : Bool) (brs : Bool) (err : Bool) (ext : Bool) : Statement (.fnew fd esi brs err ext) := by
  unfold Statement; revert fd esi brs err ext; decide

theorem frtr (fd : SlotNo) : Statement (.frtr fd) := by
  unfold Statement; revert fd; decide

theorem fsbrs (fs : SlotNo) (on : Bool) : Statement (.fsbrs fs on) := by
  unfold Statement; revert fs on; decide

theorem fsesi (fs : SlotNo) (on : Bool) : Statement (.fsesi fs on) := by
  unfold Statement; revert fs on; decide

theorem fgbrs (fs : SlotNo) : Statement (.fgbrs fs) := by
  unfold Statement; revert fs; decide

theorem fgesi (fs : SlotNo) : Statement (.fgesi fs) := by
  unfold Statement; revert fs; decide

theorem fgflg (fs : SlotNo) : Statement (.fgflg fs) := by
  unfold Statement; revert fs; decide

theorem gidw (fs : SlotNo) : Statement (.gidw fs) := by
  unfold Statement; revert fs; decide

theorem graw (fs : SlotNo) : Statement (.graw fs) := by
  unfold Statement; revert fs; decide

theorem gsid (fs : SlotNo) : Statement (.gsid fs) := by
  unfold Statement; revert fs; decide

theorem glen (fs : SlotNo) : Statement (.glen fs) := by
  unfold Statement; revert fs; decide

theorem gerrw (fs : SlotNo) : Statement (.gerrw fs) := by
  unfold Statement; revert fs; decide

theorem giserr (fs : SlotNo) : Statement (.giserr fs) := by
  unfold Statement; revert fs; decide

theorem gisext (fs : SlotNo) : Statement (.gisext fs) := by
  unfold Statement; revert fs; decide

theorem gisrtr (fs : SlotNo) : Statement (.gisrtr fs) := by
  unfold Statement; revert fs; decide

theorem gdata (fs : SlotNo) : Statement (.gdata fs) := by
  unfold Statement; revert fs; decide

theorem gkind (fs : SlotNo) : Statement (.gkind fs) := by
  unfold Statement; revert fs; decide

theorem decerr (fs : SlotNo) : Statement (.decerr fs) := by
  unfold Statement; revert fs; decide

theorem widen (fd : SlotNo) (fs : SlotNo) : Statement (.widen fd fs) := by
  unfold Statement; revert fd fs; decide

theorem narrow (fd : SlotNo) (fs : SlotNo) : Statement (.narrow fd fs) := by
  unfold Statement; revert fd fs; decide

theorem fmov (fd : SlotNo) (fs : SlotNo) : Statement (.fmov fd fs) := by
  unfold Statement; revert fd fs; decide

theorem fclr (fd : SlotNo) : Statement (.fclr fd) := by
  unfold Statement; revert fd; decide

theorem feq (fs : SlotNo) (ft : SlotNo) : Statement (.feq fs ft) := by
  unfold Statement; revert fs ft; decide

theorem ser (fs : SlotNo) : Statement (.ser fs) := by
  unfold Statement; revert fs; decide

theorem desc (fd : SlotNo) : Statement (.desc fd) := by
  unfold Statement; revert fd; decide

theorem desf (fd : SlotNo) : Statement (.desf fd) := by
  unfold Statement; revert fd; decide

theorem rend (fs : SlotNo) : Statement (.rend fs) := by
  unfold Statement; revert fs; decide

end Sys2Proof.Laws.EncodesAsTableRow
end

