-- ==== Sys2Proof/Laws/Step.lean ====
section
/-! SUPPORT. What one step can do, by the event at the head of the stream. -/

namespace Sys2Proof.Machine

/-- A step that takes a command: `exec` of what the word decodes to, or the illegal completion. -/
theorem step_command {s : State} {c : Command} {rest : List HostEvent} (h : s.stream = .command c :: rest) :
    step s = match decode c.cw with
      | .error _ => (s.present c rest).illegal
      | .ok i => exec i (s.present c rest) := by
  cases s
  cases h
  rfl

/-- A step that takes a reset pulse. -/
theorem step_reset {s : State} {rest : List HostEvent} (h : s.stream = .reset :: rest) :
    step s = .next (s.applyReset rest) := by
  simp only [step, State.take, h]

/-- A step with nothing presented. -/
theorem step_idle {s : State} (h : s.stream = []) : step s = .next s := by
  simp only [step, State.take, h]

/-- Everything a step can do. -/
theorem step_cases (s : State) :
    (s.stream = [] ∧ step s = .next s) ∨
      (∃ rest, s.stream = .reset :: rest ∧ step s = .next (s.applyReset rest)) ∨
      (∃ c rest e, s.stream = .command c :: rest ∧ decode c.cw = .error e ∧ step s = (s.present c rest).illegal) ∨
      ∃ c rest i, s.stream = .command c :: rest ∧ decode c.cw = .ok i ∧ step s = exec i (s.present c rest) := by
  match h : s.stream with
  | [] => exact .inl ⟨rfl, step_idle h⟩
  | .reset :: rest => exact .inr (.inl ⟨rest, rfl, step_reset h⟩)
  | .command c :: rest =>
    cases hd : decode c.cw with
    | error e => exact .inr (.inr (.inl ⟨c, rest, e, rfl, hd, by rw [step_command h, hd]⟩))
    | ok i => exact .inr (.inr (.inr ⟨c, rest, i, rfl, hd, by rw [step_command h, hd]⟩))

end Sys2Proof.Machine
end

