-- ==== Sys2Proof/Laws/Words.lean ====
section
/-! SUPPORT. The identifier-word and flag functions of the machine read bit by bit, and their equality with the reference
layouts of Safety.lean. -/

namespace Sys2Proof.Machine

open Sys2Proof.Safety

/-- A word tested against a single-bit mask. -/
theorem and_twoPow_eq_zero (w : Word) (k : Nat) (hk : k < 32) :
    (w &&& BitVec.twoPow 32 k != 0) = w.getLsbD k := by
  have h : ∀ k, k < 32 → BitVec.twoPow 32 k ≠ 0 := by decide
  rw [BitVec.and_twoPow]
  cases w.getLsbD k
  · rfl
  · simpa using h k hk

theorem isExt_eq (w : Word) : isExt w = w.getLsbD 31 := and_twoPow_eq_zero w 31 (by decide)

theorem isRtr_eq (w : Word) : isRtr w = w.getLsbD 30 := and_twoPow_eq_zero w 30 (by decide)

theorem isErr_eq (w : Word) : isErr w = w.getLsbD 29 := and_twoPow_eq_zero w 29 (by decide)

/-- A mask of the low `n` bits is the remainder by `2 ^ n`. -/
theorem and_lowMask (w m : Word) (n : Nat) (hm : m.toNat = 2 ^ n - 1) : w &&& m = BitVec.ofNat 32 (w.toNat % 2 ^ n) := by
  apply BitVec.eq_of_toNat_eq
  rw [BitVec.toNat_and, hm, Nat.and_two_pow_sub_one_eq_mod, BitVec.toNat_ofNat]
  exact (Nat.mod_eq_of_lt (lt_of_le_of_lt (Nat.mod_le _ _) w.isLt)).symm

/-- `raw_id` is the low 29 bits. -/
theorem rawId_eq (w : Word) : rawId w = rawWord w := and_lowMask w effMask 29 rfl

/-- Dropping `RTR_FLAG` clears bit 30 and keeps every other bit. -/
theorem dropRtr_getLsbD (w : Word) (k : Nat) (hk : k < 32) : (dropRtr w).getLsbD k = (decide (k ≠ 30) && w.getLsbD k) := by
  have h : ∀ k, k < 32 → (~~~rtrFlag).getLsbD k = decide (k ≠ 30) := by decide
  rw [dropRtr, BitVec.getLsbD_and, h k hk, Bool.and_comm]

theorem dropRtr_eq (w : Word) : dropRtr w = withoutRtr w := by
  have h : ∀ k, k < 32 → (0x40000000#32).getLsbD k = decide (k = 30) := by decide
  apply BitVec.eq_of_getLsbD_eq
  intro k hk
  rw [dropRtr_getLsbD w k hk, withoutRtr]
  split
  · rw [BitVec.getLsbD_xor, h k hk]
    by_cases hk30 : k = 30
    · subst hk30; simp_all
    · simp [hk30]
  · by_cases hk30 : k = 30
    · subst hk30; simp_all
    · simp [hk30]

/-- Flags put above the 29 bits of an id add up with it. -/
theorem or_flags {id : Word} (h : id.toNat ≤ 0x1FFFFFFF) (m : Nat) (hm : m < 8) :
    id ||| BitVec.ofNat 32 (2 ^ 29 * m) = BitVec.ofNat 32 (id.toNat + 2 ^ 29 * m) := by
  apply BitVec.eq_of_toNat_eq
  rw [BitVec.toNat_or, BitVec.toNat_ofNat, BitVec.toNat_ofNat, Nat.mod_eq_of_lt (by omega), Nat.mod_eq_of_lt (by omega),
    Nat.or_comm, ← Nat.two_pow_add_eq_or_of_lt (by omega), Nat.add_comm]

/-- `pack_id` of an id in range is the reference layout. -/
theorem packId_of_le {id : Word} (e r x : Bool) (h : id.toNat ≤ 0x1FFFFFFF) :
    packId id e r x = some (idWord id e r x) := by
  have h1 : ¬ effMask < id := by simp [effMask, BitVec.lt_def]; omega
  have h2 : decide (sffMask < id) = decide (0x7FF < id.toNat) := by simp [sffMask, BitVec.lt_def]
  rw [packId, if_neg h1, h2, idWord]
  generalize (e || decide (0x7FF < id.toNat)) = e'
  have hf : ∀ a b c : Bool, (if a then effFlag else 0) ||| ((if b then rtrFlag else 0) ||| (if c then errFlag else 0)) =
      BitVec.ofNat 32 (2 ^ 29 * (c.toNat + 2 * b.toNat + 4 * a.toNat)) := by decide
  have hlt : ∀ a b c : Bool, c.toNat + 2 * b.toNat + 4 * a.toNat < 8 := by decide
  rw [BitVec.or_assoc, BitVec.or_assoc, hf, or_flags h _ (hlt _ _ _)]
  congr 2
  omega

/-- An id above 29 bits is refused. -/
theorem packId_of_lt {id : Word} (e r x : Bool) (h : 0x1FFFFFFF < id.toNat) : packId id e r x = none :=
  (packId_eq_none_iff id e r x).2 h

/-- The semantic identifier at the port. -/
theorem semId_toWord (w : Word) : (semId w).toWord = semWord w := by
  have hw := w.isLt
  rw [semId, semWord, isExt_eq, and_lowMask w effMask 29 rfl, and_lowMask w sffMask 11 rfl]
  apply BitVec.eq_of_toNat_eq
  cases w.getLsbD 31
  · simp [SemId.toWord]
  · have h : effFlag = BitVec.ofNat 32 (2 ^ 29 * 4) := by decide
    simp only [if_true, SemId.toWord]
    rw [BitVec.or_comm, h, or_flags (by simp; omega) 4 (by decide)]
    simp
    omega

/-- Setting or clearing a mask, bit by bit (42_fd_frame.md R93, R94). -/
theorem putMask_getLsbD (flags mask : Byte) (on : Bool) (k : Nat) (hk : k < 8) :
    (putMask flags mask on).getLsbD k = if mask.getLsbD k then on else flags.getLsbD k := by
  unfold putMask
  cases on <;> simp only [if_true, Bool.false_eq_true, if_false, BitVec.getLsbD_or, BitVec.getLsbD_and, BitVec.getLsbD_not,
    hk, decide_true, Bool.true_and] <;> cases mask.getLsbD k <;> simp

end Sys2Proof.Machine
end

