-- ==== Sys2Proof/Tests/Slice0.lean ====
section
/-! SUPPORT. Tests of this model's own text: ill-formed terms that the checks refuse, words written out from the spec's
encodings, single steps whose expected results are the spec's examples and vectors, and witnesses for the hypotheses of the
obligations. -/

namespace Sys2Proof.Tests

open Sys2Proof Sys2Proof.Machine Sys2Proof.Safety

/-! ## Well-formedness: an ill-formed term for each check -/

theorem test_wf_default : Config.default.wf = true := by decide
theorem test_wf_every_instr : (Instr.fnew 3 true true true true).wf = true := by decide
theorem test_wf_refuses_no_brs_bit : { Config.default with brsMask := 0x00#8 }.wf = false := by decide
theorem test_wf_refuses_two_brs_bits : { Config.default with brsMask := 0x05#8 }.wf = false := by decide
theorem test_wf_refuses_no_esi_bit : { Config.default with esiMask := 0x00#8 }.wf = false := by decide
theorem test_wf_refuses_two_esi_bits : { Config.default with esiMask := 0x0C#8 }.wf = false := by decide
theorem test_wf_refuses_equal_masks : { Config.default with esiMask := 0x01#8 }.wf = false := by decide
theorem test_wf_refuses_classic_offset_4 : { Config.default with classicDataOffset := 4 }.wf = false := by decide
theorem test_wf_refuses_classic_payload_outside : { Config.default with classicDataOffset := 9 }.wf = false := by decide
theorem test_wf_refuses_classic_image_73 : { Config.default with classicImageSize := 73 }.wf = false := by decide
theorem test_wf_refuses_fd_offset_5 : { Config.default with fdDataOffset := 5 }.wf = false := by decide
theorem test_wf_refuses_fd_payload_outside : { Config.default with fdDataOffset := 9 }.wf = false := by decide
theorem test_wf_refuses_fd_image_73 : { Config.default with fdImageSize := 73 }.wf = false := by decide

/-! ## Test states -/

/-- A payload buffer: the given bytes, then zeros. -/
def buf (n : Nat) (bytes : List Byte) : Vector Byte n := Vector.ofFn fun k => bytes.getD k.val 0

def cl (idw : Word) (len : Byte) (bytes : List Byte) : Slot := .classic ⟨idw, len, buf 8 bytes⟩

def fdf (idw : Word) (len flags : Byte) (bytes : List Byte) : Slot := .fd ⟨idw, len, flags, buf 64 bytes⟩

/-- The state after reset with the four slots given. -/
def st (a b c d : Slot) : State := { State.reset with slots := #v[a, b, c, d] }

/-- One command on the port. -/
def cmd (cw arg : Word) (dlen : Byte) (bytes : List Byte) : Command := ⟨cw, arg, dlen, buf 72 bytes⟩

/-- The response of one command. -/
def rspOf (s : State) (c : Command) : Option Response := (runOne s c).rsp

/-- `STATUS` after one command. -/
def statusOf (s : State) (c : Command) : Byte := (runOne s c).status.word

theorem test_slotWf_refuses_classic_len_9 : slotWf (cl 0 9 []) = false := by decide
theorem test_slotWf_refuses_fd_len_65 : slotWf (fdf 0 65 0 []) = false := by decide
theorem test_slotWf_refuses_fd_remote : slotWf (fdf 0x40000000#32 0 0 []) = false := by decide
theorem test_slotWf_accepts_bounds : slotWf (cl 0x40000007#32 8 []) = true ∧ slotWf (fdf 0 64 0xFF#8 []) = true := by
  decide
theorem test_responseWf_refuses_value_of_failure : responseWf ⟨.eKind, 1, []⟩ = false := by decide
theorem test_responseWf_refuses_206_bytes : responseWf ⟨.ok, 0, List.replicate 206 0⟩ = false := by
  rw [responseWf, List.length_replicate]
  rfl

/-! ## Decoding: a word written out from the Encoding line of every command -/

theorem test_decode_nop : decode 0x00000000#32 = .ok .nop := by decide
theorem test_decode_rdst : decode 0x01000000#32 = .ok .rdst := by decide
theorem test_decode_clrst : decode 0x02000000#32 = .ok .clrst := by decide
theorem test_decode_idpack : decode 0x10000004#32 = .ok (.idpack true false false) := by decide
theorem test_decode_idraw : decode 0x11000000#32 = .ok .idraw := by decide
theorem test_decode_idsem : decode 0x12000000#32 = .ok .idsem := by decide
theorem test_decode_idflg : decode 0x13000000#32 = .ok .idflg := by decide
theorem test_decode_cnew : decode 0x20400003#32 = .ok (.cnew 1 false true true) := by decide
theorem test_decode_crtr : decode 0x21C00000#32 = .ok (.crtr 3) := by decide
theorem test_decode_fnew : decode 0x30000008#32 = .ok (.fnew 0 false true false false) := by decide
theorem test_decode_fnew_esi_err_ext : decode 0x30800015#32 = .ok (.fnew 2 true false true true) := by decide
theorem test_decode_frtr : decode 0x31800000#32 = .ok (.frtr 2) := by decide
theorem test_decode_fsbrs : decode 0x32100001#32 = .ok (.fsbrs 1 true) := by decide
theorem test_decode_fsesi : decode 0x33000000#32 = .ok (.fsesi 0 false) := by decide
theorem test_decode_fgbrs : decode 0x34200000#32 = .ok (.fgbrs 2) := by decide
theorem test_decode_fgesi : decode 0x35300000#32 = .ok (.fgesi 3) := by decide
theorem test_decode_fgflg : decode 0x36100000#32 = .ok (.fgflg 1) := by decide
theorem test_decode_gidw : decode 0x40100000#32 = .ok (.gidw 1) := by decide
theorem test_decode_graw : decode 0x41200000#32 = .ok (.graw 2) := by decide
theorem test_decode_gsid : decode 0x42300000#32 = .ok (.gsid 3) := by decide
theorem test_decode_glen : decode 0x43000000#32 = .ok (.glen 0) := by decide
theorem test_decode_gerrw : decode 0x44100000#32 = .ok (.gerrw 1) := by decide
theorem test_decode_giserr : decode 0x45200000#32 = .ok (.giserr 2) := by decide
theorem test_decode_gisext : decode 0x46300000#32 = .ok (.gisext 3) := by decide
theorem test_decode_gisrtr : decode 0x47100000#32 = .ok (.gisrtr 1) := by decide
theorem test_decode_gdata : decode 0x48100000#32 = .ok (.gdata 1) := by decide
theorem test_decode_gkind : decode 0x49300000#32 = .ok (.gkind 3) := by decide
theorem test_decode_decerr : decode 0x4A100000#32 = .ok (.decerr 1) := by decide
theorem test_decode_widen : decode 0x50900000#32 = .ok (.widen 2 1) := by decide
theorem test_decode_narrow : decode 0x51E00000#32 = .ok (.narrow 3 2) := by decide
theorem test_decode_fmov : decode 0x52D00000#32 = .ok (.fmov 3 1) := by decide
theorem test_decode_fclr : decode 0x53800000#32 = .ok (.fclr 2) := by decide
theorem test_decode_feq : decode 0x541C0000#32 = .ok (.feq 1 3) := by decide
theorem test_decode_ser : decode 0x60100000#32 = .ok (.ser 1) := by decide
theorem test_decode_desc : decode 0x61400000#32 = .ok (.desc 1) := by decide
theorem test_decode_desf : decode 0x62800000#32 = .ok (.desf 2) := by decide
theorem test_decode_rend : decode 0x70100000#32 = .ok (.rend 1) := by decide

/-- R58 (a): opcodes of no row. -/
theorem test_decode_unassigned : decode 0x03000000#32 = .error .unassignedOpcode ∧
    decode 0xFF000000#32 = .error .unassignedOpcode ∧ decode 0x14000000#32 = .error .unassignedOpcode := by decide

/-- R58 (b): a bit the format does not use is set; bit 1 of `FNEW` among them (R91). -/
theorem test_decode_reserved : decode 0x00000001#32 = .error .reservedBitSet ∧
    decode 0x30000002#32 = .error .reservedBitSet ∧ decode 0x20100000#32 = .error .reservedBitSet ∧
    decode 0x40400000#32 = .error .reservedBitSet ∧ decode 0x54400000#32 = .error .reservedBitSet := by decide

/-- The decoder's rows are the masks and matches of the opcode table, in its order. -/
theorem test_rows_are_the_table : opRows.map (fun r => (r.format.mask, r.pattern)) = tableRows := by decide

theorem test_decodeTableWord : decodeTableWord 32 0x541C0000 = some (.feq 1 3) ∧
    decodeTableWord 32 0x30000002 = none := by decide

/-- A word put where the next step fetches is the command that step runs. -/
theorem test_withFetchWord : step (State.reset.withFetchWord 32 0x49000000) =
    exec (.gkind 0) { State.reset with port := Command.ofWord 0x49000000#32 } := rfl

/-! ## One step an instruction: the spec's examples and vectors -/

/-- A state whose last command failed with `ID_TOO_LARGE`. -/
def failed : State := { State.reset with status := ⟨.idTooLarge, true⟩ }

-- 47_system.md R151: `STATUS` unchanged.
theorem test_nop : (rspOf failed (cmd 0x00000000#32 0 0 []), statusOf failed (cmd 0x00000000#32 0 0 [])) =
    (some ⟨.ok, 0, []⟩, 0x11#8) := by decide
-- 47_system.md R152, example.
theorem test_rdst : rspOf failed (cmd 0x01000000#32 0 0 []) = some ⟨.ok, 0x11#32, []⟩ := by decide
-- 47_system.md R153, example.
theorem test_clrst : statusOf failed (cmd 0x02000000#32 0 0 []) = 0x00#8 := by decide

-- 40_identifier_codec.md R71, example; V-IDPACK-4 and V-IDPACK-8.
theorem test_idpack : rspOf State.reset (cmd 0x10000004#32 0x12345#32 0 []) = some ⟨.ok, 0xA0012345#32, []⟩ ∧
    rspOf State.reset (cmd 0x10000000#32 0x800#32 0 []) = some ⟨.ok, 0x80000800#32, []⟩ := by decide
theorem test_idpack_too_large : rspOf State.reset (cmd 0x10000007#32 0x20000000#32 0 []) = some ⟨.idTooLarge, 0, []⟩ ∧
    statusOf State.reset (cmd 0x10000007#32 0x20000000#32 0 []) = 0x11#8 := by decide
-- R72, example.
theorem test_idraw : rspOf State.reset (cmd 0x11000000#32 0xFFFFFFFF#32 0 []) = some ⟨.ok, 0x1FFFFFFF#32, []⟩ := by
  decide
-- R73, example and corner case.
theorem test_idsem : rspOf State.reset (cmd 0x12000000#32 0xC0000007#32 0 []) = some ⟨.ok, 0x80000007#32, []⟩ ∧
    rspOf State.reset (cmd 0x12000000#32 0x00012345#32 0 []) = some ⟨.ok, 0x345#32, []⟩ := by decide
-- R74, example.
theorem test_idflg : rspOf State.reset (cmd 0x13000000#32 0xA0012345#32 0 []) = some ⟨.ok, 5, []⟩ := by decide

-- 41_classic_frame.md R81, example; 60_exceptions.md R162: the length comes before the id.
theorem test_cnew : (runOne State.reset (cmd 0x20400000#32 0x123#32 2 [0xDE#8, 0xAD#8, 0x55#8])).slot 1 =
    cl 0x00000123#32 2 [0xDE#8, 0xAD#8] := by decide
theorem test_cnew_order : rspOf State.reset (cmd 0x20000000#32 0x20000000#32 9 []) = some ⟨.tooMuchData, 0, []⟩ ∧
    rspOf State.reset (cmd 0x20000000#32 0x20000000#32 8 []) = some ⟨.idTooLarge, 0, []⟩ := by decide
-- R82, example.
theorem test_crtr : (runOne State.reset (cmd 0x21000000#32 7 3 [0xFF#8])).slot 0 = cl 0x40000007#32 3 [] := by decide
theorem test_crtr_too_much : rspOf State.reset (cmd 0x21000000#32 7 9 []) = some ⟨.tooMuchData, 0, []⟩ := by decide

-- 42_fd_frame.md R91, example and corner cases.
theorem test_fnew : (runOne State.reset (cmd 0x30000008#32 1 1 [0xAA#8])).slot 0 = fdf 1 1 0x01#8 [0xAA#8] ∧
    (runOne State.reset (cmd 0x30000018#32 1 1 [0xAA#8])).slot 0 = fdf 1 1 0x03#8 [0xAA#8] := by decide
theorem test_fnew_too_much : rspOf State.reset (cmd 0x30000000#32 1 65 []) = some ⟨.tooMuchData, 0, []⟩ ∧
    rspOf State.reset (cmd 0x30000000#32 1 64 []) = some ⟨.ok, 0, []⟩ := by decide
-- R92, example.
theorem test_frtr : rspOf State.reset (cmd 0x31800000#32 7 3 []) = some ⟨.notConstructible, 0, []⟩ := by decide

/-- `F[0]` an FD frame with the flags byte given. -/
def flagged (fl : Byte) : State := st (fdf 1 1 fl [0xAA#8]) .empty .empty .empty

-- R93 to R97, examples; V-FLAG.
theorem test_fsbrs : (runOne (flagged 0x02#8) (cmd 0x32000001#32 0 0 [])).slot 0 = fdf 1 1 0x03#8 [0xAA#8] ∧
    (runOne (flagged 0xFF#8) (cmd 0x32000000#32 0 0 [])).slot 0 = fdf 1 1 0xFE#8 [0xAA#8] := by decide
theorem test_fsesi : (runOne (flagged 0x03#8) (cmd 0x33000000#32 0 0 [])).slot 0 = fdf 1 1 0x01#8 [0xAA#8] ∧
    (runOne (flagged 0x01#8) (cmd 0x33000001#32 0 0 [])).slot 0 = fdf 1 1 0x03#8 [0xAA#8] := by decide
theorem test_fgbrs : rspOf (flagged 0x01#8) (cmd 0x34000000#32 0 0 []) = some ⟨.ok, 1, []⟩ := by decide
theorem test_fgesi : rspOf (flagged 0x01#8) (cmd 0x35000000#32 0 0 []) = some ⟨.ok, 0, []⟩ ∧
    rspOf (flagged 0x02#8) (cmd 0x35000000#32 0 0 []) = some ⟨.ok, 1, []⟩ := by decide
theorem test_fgflg : rspOf (flagged 0xFF#8) (cmd 0x36000000#32 0 0 []) = some ⟨.ok, 0xFF#32, []⟩ := by decide

/-- `F[1]` a classic frame with the word given and the payload `DE AD`. -/
def holds (w : Word) : State := st .empty (cl w 2 [0xDE#8, 0xAD#8]) .empty .empty

-- 43_frame_contract.md R101 to R110, examples.
theorem test_gidw : rspOf (holds 0x123#32) (cmd 0x40100000#32 0 0 []) = some ⟨.ok, 0x123#32, []⟩ ∧
    rspOf (holds 0x123#32) (cmd 0x40000000#32 0 0 []) = some ⟨.eKind, 0, []⟩ := by decide
theorem test_graw : rspOf (holds 0xA0012345#32) (cmd 0x41100000#32 0 0 []) = some ⟨.ok, 0x12345#32, []⟩ := by decide
theorem test_gsid : rspOf (holds 0x80000123#32) (cmd 0x42100000#32 0 0 []) = some ⟨.ok, 0x80000123#32, []⟩ := by decide
theorem test_glen : rspOf (st (cl 0x40000007#32 3 []) .empty .empty .empty) (cmd 0x43000000#32 0 0 []) =
    some ⟨.ok, 3, []⟩ := by decide
theorem test_gerrw : rspOf (holds 0x20000004#32) (cmd 0x44100000#32 0 0 []) = some ⟨.ok, 4, []⟩ := by decide
theorem test_giserr : rspOf (holds 0x20000001#32) (cmd 0x45100000#32 0 0 []) = some ⟨.ok, 1, []⟩ := by decide
theorem test_gisext : rspOf (holds 0x80000800#32) (cmd 0x46100000#32 0 0 []) = some ⟨.ok, 1, []⟩ := by decide
theorem test_gisrtr : rspOf (holds 0x40000007#32) (cmd 0x47100000#32 0 0 []) = some ⟨.ok, 1, []⟩ ∧
    rspOf (flagged 0) (cmd 0x47000000#32 0 0 []) = some ⟨.ok, 0, []⟩ := by decide
theorem test_gdata : rspOf (holds 0x123#32) (cmd 0x48100000#32 0 0 []) = some ⟨.ok, 2, [0xDE#8, 0xAD#8]⟩ := by decide
theorem test_gkind : rspOf (flagged 0) (cmd 0x49000000#32 0 0 []) = some ⟨.ok, 2, []⟩ ∧
    rspOf (flagged 0) (cmd 0x49100000#32 0 0 []) = some ⟨.ok, 0, []⟩ := by decide
-- V-DECERR-A1 and A3.
theorem test_decerr : responseOf (decerrWith (fun _ _ => none) 1 (holds 0x20000004#32)) =
    some ⟨.decodeFail, 0, []⟩ ∧
    rspOf (holds 0x123#32) (cmd 0x4A000000#32 0 0 []) = some ⟨.eKind, 0, []⟩ := by decide
/-- Instance B of V-DECERR: the kind code above the low 28 bits of the image's word. -/
def instanceB (k : Word) (img : List Byte) : Option Word :=
  some (k <<< 28 ||| wordOf .little (img.getD 0 0) (img.getD 1 0) (img.getD 2 0) (img.getD 3 0) &&& 0x0FFFFFFF#32)
-- V-DECERR-B1, B5 and B7: whatever `ERR_FLAG` is.
theorem test_decerr_answers : responseOf (decerrWith instanceB 1 (holds 0x20000004#32)) = some ⟨.ok, 0x10000004#32, []⟩ ∧
    responseOf (decerrWith instanceB 1 (holds 5)) = some ⟨.ok, 0x10000005#32, []⟩ ∧
    responseOf (decerrWith instanceB 0 (st (fdf 0x20000004#32 8 0 []) .empty .empty .empty)) =
      some ⟨.ok, 0x20000004#32, []⟩ := by decide

-- 44_union_conversions.md R121, corner case (a) and (b).
theorem test_widen : (runOne (st .empty (cl 0x60000007#32 1 [0x01#8, 0x02#8]) .empty .empty)
    (cmd 0x50900000#32 0 0 [])).slot 2 = fdf 0x20000007#32 1 0 [0x01#8, 0x02#8] := by decide
theorem test_widen_in_place : (runOne (holds 0x123#32) (cmd 0x50500000#32 0 0 [])).slot 1 =
    fdf 0x123#32 2 0 [0xDE#8, 0xAD#8] := by decide
-- R122, example, corner cases (a) and (d).
theorem test_narrow : (runOne (st .empty .empty (fdf 0x123#32 2 3 [0xDE#8, 0xAD#8, 0x55#8]) .empty)
    (cmd 0x51E00000#32 0 0 [])).slot 3 = cl 0x123#32 2 [0xDE#8, 0xAD#8] := by decide
theorem test_narrow_too_much : rspOf (st .empty .empty (fdf 0x123#32 9 0 []) .empty) (cmd 0x51E00000#32 0 0 []) =
    some ⟨.tooMuchData, 0, []⟩ := by decide
-- R123, R124, R125.
theorem test_fmov : (runOne (holds 0x123#32) (cmd 0x52D00000#32 0 0 [])).slot 3 = cl 0x123#32 2 [0xDE#8, 0xAD#8] := by
  decide
theorem test_fclr : (runOne (holds 0x123#32) (cmd 0x53400000#32 0 0 [])).slot 1 = .empty := by decide
theorem test_feq : rspOf (st .empty (cl 7 1 [0x01#8, 0x02#8]) .empty (cl 7 1 [0x01#8])) (cmd 0x541C0000#32 0 0 []) =
    some ⟨.ok, 1, []⟩ ∧
    rspOf (st .empty (cl 7 1 [0x01#8]) .empty (fdf 7 1 0 [0x01#8])) (cmd 0x541C0000#32 0 0 []) = some ⟨.ok, 0, []⟩ := by
  decide

-- 45_raw_image.md R131, example; V-BE: the byte order is a parameter.
theorem test_ser : rspOf (holds 0x123#32) (cmd 0x60100000#32 0 0 []) =
    some ⟨.ok, 16, [0x23, 1, 0, 0, 2, 0, 0, 0, 0xDE, 0xAD, 0, 0, 0, 0, 0, 0]⟩ := by decide
theorem test_ser_big : rspOf { holds 0x123#32 with cfg := { Config.default with imageEndian := .big } }
    (cmd 0x60100000#32 0 0 []) = some ⟨.ok, 16, [0, 0, 1, 0x23, 2, 0, 0, 0, 0xDE, 0xAD, 0, 0, 0, 0, 0, 0]⟩ := by decide
-- R132, example; the padding is ignored.
theorem test_desc : (runOne State.reset (cmd 0x61000000#32 0 0 [0x23, 1, 0, 0, 2, 9, 9, 9, 0xDE, 0xAD])).slot 0 =
    cl 0x123#32 2 [0xDE#8, 0xAD#8] := by decide
theorem test_desc_too_much : rspOf State.reset (cmd 0x61000000#32 0 0 [0, 0, 0, 0, 9]) = some ⟨.tooMuchData, 0, []⟩ := by
  decide
-- R133, example, corner cases (c') and (d').
theorem test_desf : (runOne State.reset (cmd 0x62800000#32 0 0 [1, 0, 0, 0, 1, 1, 7, 7, 0xAA])).slot 2 =
    fdf 1 1 1 [0xAA#8] := by decide
theorem test_desf_refused : rspOf State.reset (cmd 0x62800000#32 0 0 [0, 0, 0, 0x40, 64]) = some ⟨.eFormat, 0, []⟩ ∧
    rspOf State.reset (cmd 0x62800000#32 0 0 [0, 0, 0, 0x40, 65]) = some ⟨.tooMuchData, 0, []⟩ := by decide

-- 46_text_rendering.md R141, examples: `123#DE AD`, `1##1 AA`.
theorem test_rend : rspOf (holds 0x123#32) (cmd 0x70100000#32 0 0 []) =
    some ⟨.ok, 9, [0x31, 0x32, 0x33, 0x23, 0x44, 0x45, 0x20, 0x41, 0x44]⟩ := by decide
theorem test_rend_fd : rspOf (flagged 0x01#8) (cmd 0x70000000#32 0 0 []) =
    some ⟨.ok, 7, [0x31, 0x23, 0x23, 0x31, 0x20, 0x41, 0x41]⟩ := by decide

-- 30_encoding.md R58, 10_state.md R16: an illegal `NOP` word is no `NOP`; code 9 and `STICKY`.
theorem test_illegal : rspOf State.reset (cmd 0x00000001#32 0 0 []) = some ⟨.eIllegal, 0, []⟩ ∧
    statusOf State.reset (cmd 0x03000000#32 0 0 []) = 0x19#8 := by decide

-- 70_reset_and_hazards.md R180: nothing survives a reset.
theorem test_reset_pulse : step { holds 0x123#32 with status := ⟨.eKind, true⟩, stream := [.reset] } =
    .next State.reset := rfl

/-! ## Witnesses: for the hypotheses of each obligation, states and operands that meet them -/

/-- Slots: `EMPTY`; a classic frame of 8 bytes with the remote flag; an FD frame of 8 bytes; an FD frame of 64 bytes. -/
def full : State :=
  st .empty (cl 0x40000007#32 8 (List.replicate 8 0x11#8)) (fdf 0x80000123#32 8 3 (List.replicate 8 0x22#8))
    (fdf 0x7FF#32 64 0xFF#8 (List.replicate 64 0x33#8))

/-- A second state: two frames of 2 bytes, equal but for a byte beyond `len`, an FD frame of 9 bytes, a classic frame with
zeros beyond `len` and no remote flag. -/
def second : State :=
  st (cl 7 2 [0x01#8, 0x02#8, 0x03#8]) (cl 7 2 [0x01#8, 0x02#8]) (fdf 7 9 0 (List.replicate 64 0x44#8))
    (cl 0x123#32 2 [0xDE#8, 0xAD#8])

/-- A state with the port fields given. -/
def portOf (arg : Word) (dlen : Byte) (bytes : List Byte) : State := { full with port := cmd 0 arg dlen bytes }

/-- A state with one command presented. -/
def presented (s : State) (cw arg : Word) (dlen : Byte) (bytes : List Byte) : State :=
  { s with stream := [.command (cmd cw arg dlen bytes)] }

/-- A frame of each kind whose word has every flag it may have, at the largest length. -/
theorem witness_inv : Inv (presented full 0x20400007#32 0x1FFFFFFF#32 8 (List.replicate 72 0xFF#8)) :=
  ⟨by decide, by decide, fun r h => by cases h⟩

/-- `StepKeepsInvariant`: a state that meets the invariant and has a next state. -/
theorem witness_StepKeepsInvariant : ∃ s t, Inv s ∧ step s = .next t ∧ t.slot 1 ≠ s.slot 1 :=
  ⟨_, _, witness_inv, rfl, by decide⟩

/-- `ConstructedSlotsAreZeroFilled`: each kind of writer, completing `OK`; the sources of `WIDEN` and `FMOV` zero-filled. -/
theorem witness_ConstructedSlotsAreZeroFilled :
    responseOf (exec (.cnew 0 true true true) (portOf 0x1FFFFFFF#32 8 [])) = some ⟨.ok, 0, []⟩ ∧
    responseOf (exec (.crtr 0) (portOf 0x1FFFFFFF#32 8 [])) = some ⟨.ok, 0, []⟩ ∧
    responseOf (exec (.fnew 0 true true true true) (portOf 0x1FFFFFFF#32 64 [])) = some ⟨.ok, 0, []⟩ ∧
    responseOf (exec (.narrow 0 2) full) = some ⟨.ok, 0, []⟩ ∧
    responseOf (exec (.widen 0 3) second) = some ⟨.ok, 0, []⟩ ∧
    responseOf (exec (.fmov 0 3) second) = some ⟨.ok, 0, []⟩ ∧
    writes (.cnew 0 true true true) = some 0 ∧ writes (.narrow 0 2) = some 0 ∧ writes (.widen 0 3) = some 0 := by
  decide

theorem witness_zeroTail : zeroTail (second.slot 3) := by
  show ∀ k : Fin 8, _
  decide

theorem witness_not_zeroTail : ¬ zeroTail (second.slot 0) := by
  show ¬ ∀ k : Fin 8, _
  decide

/-- `StepRunsDecodedInstruction`, `EveryCommandGetsAResponse`, `IllegalWordsCompleteWithEIllegal`, second clause: a legal
word at the head of the stream. -/
theorem witness_StepRunsDecodedInstruction :
    (presented full 0x541C0000#32 0 0 []).stream = [.command (cmd 0x541C0000#32 0 0 [])] ∧
    decode (cmd 0x541C0000#32 0 0 []).cw = .ok (.feq 1 3) ∧ (Instr.feq 1 3).wf = true := by decide

theorem witness_isLegalWord : isLegalWord 0x541C0000#32 := by
  unfold isLegalWord
  decide

/-- `IllegalWordsCompleteWithEIllegal`, first clause, and `ChecksInOrder`, first clause: an unassigned opcode and an
assigned one with a reserved bit. -/
theorem witness_not_isLegalWord : ¬ isLegalWord 0xFF000000#32 ∧ ¬ isLegalWord 0x30000002#32 := by
  unfold isLegalWord
  decide

/-- `StepOnResetPulseAndIdle`: a pulse presented; nothing presented. -/
theorem witness_StepOnResetPulseAndIdle : { full with stream := [.reset] }.stream = [.reset] ∧ full.stream = [] := by
  decide

/-- `DecodeAfterEncode`, `EncodeAfterDecode`: a command with every operand bit set, and its word. -/
theorem witness_DecodeAfterEncode : (Instr.fnew 3 true true true true).wf = true ∧
    decode 0x30C0001D#32 = .ok (.fnew 3 true true true true) := by decide

/-- `FailureWritesNoSlot`: a failing command. -/
theorem witness_FailureWritesNoSlot : ∃ t r, step (presented full 0x20400000#32 0 9 []) = .next t ∧ t.rsp = some r ∧
    r.st ≠ .ok := ⟨_, _, rfl, rfl, by decide⟩

/-- `StatusUpdateRule`: each of the three kinds of command, and an illegal word. -/
theorem witness_StatusUpdateRule : decode 0x00000000#32 = .ok .nop ∧ decode 0x01000000#32 = .ok .rdst ∧
    decode 0x02000000#32 = .ok .clrst ∧ decode 0x10000007#32 = .ok (.idpack true true true) ∧
    isSystem (.idpack true true true) = false ∧ (∀ i, decode 0xFF000000#32 = .ok i → isSystem i = false) ∧
    Instr.gkind 0 ≠ .rdst := by
  refine ⟨by decide, by decide, by decide, by decide, by decide, fun i h => ?_, by decide⟩
  have : decode 0xFF000000#32 = .error .unassignedOpcode := by decide
  rw [this] at h
  cases h

/-- `StickyRecordsEveryFailure`: a stream with a failing command and a `NOP`, two steps. -/
theorem witness_StickyRecordsEveryFailure :
    let s := { full with stream := [.command (cmd 0x31000000#32 0 0 []), .command (cmd 0 0 0 [])] }
    (∀ e ∈ s.stream, ∃ c, e = .command c ∧ decode c.cw ≠ .ok .clrst) ∧ 2 ≤ s.stream.length := by
  refine ⟨fun e h => ?_, by decide⟩
  simp only [List.mem_cons, List.not_mem_nil, or_false] at h
  rcases h with rfl | rfl
  · exact ⟨_, rfl, by decide⟩
  · exact ⟨_, rfl, by decide⟩

/-- The `STICKY` at its end is 1, by the first response. -/
theorem witness_StickyRecordsEveryFailure_set :
    (observe 2 { full with stream := [.command (cmd 0x31000000#32 0 0 []), .command (cmd 0 0 0 [])] }).2.status.sticky =
      true := by decide

/-- `SlotAccessTable`, clauses one to three: a command that writes another slot, a writer that fails, a tag not accepted by
each kind of check, a writer that completes. -/
theorem witness_SlotAccessTable :
    writes (.cnew 0 false false false) ≠ some 1 ∧
    responseOf (exec (.cnew 0 false false false) (portOf 0 9 [])) = some ⟨.tooMuchData, 0, []⟩ ∧
    TagReq.fdOnly.accepts (full.slot 1) = false ∧ TagReq.classicOnly.accepts (full.slot 2) = false ∧
    TagReq.anyFrame.accepts (full.slot 0) = false ∧ (0, TagReq.anyFrame) ∈ reads (.feq 1 0) ∧
    responseOf (exec (.narrow 1 2) full) = some ⟨.ok, 0, []⟩ := by decide

/-- `SlotAccessTable`, clause four, and `ChecksInOrder`, last clause: an overwritten slot that is not read. -/
theorem witness_SlotAccessTable_unread : (∀ q ∈ reads (.widen 2 1), q.1 ≠ 2) ∧ writes (.widen 2 1) = some 2 ∧
    responseOf (exec (.widen 2 1) full) = some ⟨.ok, 0, []⟩ := by decide

/-- `SlotAccessTable`, last clause: the three commands in place. -/
theorem witness_SlotAccessTable_in_place : responseOf (exec (.widen 1 1) full) = some ⟨.ok, 0, []⟩ ∧
    responseOf (exec (.narrow 2 2) full) = some ⟨.ok, 0, []⟩ ∧ responseOf (exec (.fmov 3 3) full) = some ⟨.ok, 0, []⟩ := by
  decide

/-- `CommandFrame`, `PossibleStatuses`, first clause: a next state; a slot that is not written. -/
theorem witness_CommandFrame : ∃ t, exec (.fsbrs 2 false) full = .next t ∧ writes (.fsbrs 2 false) ≠ some 1 :=
  ⟨_, rfl, by decide⟩

/-- `PossibleStatuses`, other clauses. -/
theorem witness_PossibleStatuses : (∀ fs, Instr.desf 1 ≠ .decerr fs) ∧ StatusCode.eFormat ∈ possibleStatuses (.desf 1) ∧
    StatusCode.decodeFail ∈ possibleStatuses (.decerr 3) := by decide

/-- `UnusedOperandsAreIgnored`: ports that differ in every ignored field, for a command that uses none, for a constructor
and for an image command. -/
theorem witness_UnusedOperandsAreIgnored :
    agreeOnUsed Config.default (.gidw 1) (cmd 0 0 0 []) (cmd 1 2 3 [0x04#8]) ∧
    agreeOnUsed Config.default (.cnew 1 false false false) (cmd 0 7 2 [0x01#8, 0x02#8]) (cmd 1 7 2 [0x01#8, 0x02#8, 0x03#8]) ∧
    agreeOnUsed Config.default (.desc 1) (cmd 0 0 0 []) (cmd 1 2 3 (List.replicate 16 0x00#8 ++ [0x05#8])) := by
  unfold agreeOnUsed
  decide

/-- `ChecksInOrder`, middle clause: the accepted tags with each later check failing. -/
theorem witness_ChecksInOrder : (∀ q ∈ reads (.narrow 0 2), q.2.accepts (second.slot q.1) = true) ∧
    (portOf 0x20000000#32 9 []).port.dlen.toNat = 9 ∧ 0x1FFFFFFF < (portOf 0x20000000#32 8 []).port.arg.toNat ∧
    (portOf 0x20000000#32 65 []).port.dlen.toNat = 65 ∧
    ((portOf 0 0 [0, 0, 0, 0x40, 64]).port.dinByte 4).toNat ≤ 64 ∧
    (imageWordOf .little (portOf 0 0 [0, 0, 0, 0x40, 64]).port).getLsbD 30 = true ∧
    (∀ q ∈ reads (.decerr 1), q.2.accepts (full.slot q.1) = true) := by decide

/-- `IdpackResult`, `CodecLaws`, `CnewResult`, `CrtrResult`, `FnewResult`, `ConstructedClassicFrameReadsBack`: both sides of
each bound. -/
theorem witness_constructor_bounds : (portOf 0x1FFFFFFF#32 8 []).port.arg.toNat ≤ 0x1FFFFFFF ∧
    0x1FFFFFFF < (portOf 0x20000000#32 8 []).port.arg.toNat ∧ (portOf 0x1FFFFFFF#32 8 []).port.dlen.toNat ≤ 8 ∧
    8 < (portOf 0x1FFFFFFF#32 9 []).port.dlen.toNat ∧ (portOf 0x1FFFFFFF#32 64 []).port.dlen.toNat ≤ 64 ∧
    64 < (portOf 0x1FFFFFFF#32 65 []).port.dlen.toNat := by decide

/-- The words on either side of the bounds. -/
theorem witness_idWord : idWord 0x7FF#32 false false false = 0x000007FF#32 ∧
    idWord 0x800#32 false false false = 0x80000800#32 ∧ idWord 0x1FFFFFFF#32 true true true = 0xFFFFFFFF#32 ∧
    packedWord 0x000007FF#32 ∧ packedWord 0x80000800#32 ∧ ¬ packedWord 0x00000800#32 := by
  unfold packedWord
  decide

/-- The reference words of the other commands on the spec's examples (40_identifier_codec.md R72 to R74). -/
theorem witness_reference_words : rawWord 0xFFFFFFFF#32 = 0x1FFFFFFF#32 ∧ semWord 0x00012345#32 = 0x345#32 ∧
    semWord 0xC0000007#32 = 0x80000007#32 ∧ flagBits 0xA0012345#32 = 5 ∧ withoutRtr 0x60000007#32 = 0x20000007#32 ∧
    withoutRtr 0x20000007#32 = 0x20000007#32 := by decide

/-- Slots of each kind for the statements about accessors, flags, conversions, images and texts, at the ends of the length
ranges. -/
theorem witness_slots :
    full.slot 0 = .empty ∧ full.slot 1 = .classic ⟨0x40000007#32, 8, buf 8 (List.replicate 8 0x11#8)⟩ ∧
    full.slot 2 = .fd ⟨0x80000123#32, 8, 3, buf 64 (List.replicate 8 0x22#8)⟩ ∧
    full.slot 3 = .fd ⟨0x7FF#32, 64, 0xFF#8, buf 64 (List.replicate 64 0x33#8)⟩ ∧
    second.slot 2 = .fd ⟨7, 9, 0, buf 64 (List.replicate 64 0x44#8)⟩ := ⟨rfl, rfl, rfl, rfl, rfl⟩

theorem witness_slots_wf : full.cfg.wf = true ∧ slotWf (full.slot 1) = true ∧ slotWf (full.slot 2) = true ∧
    slotWf (full.slot 3) = true := by decide

/-- `HeaderAccessors`: a header of either kind. -/
theorem witness_HeaderAccessors : (full.slot 1).header = some ⟨0x40000007#32, 8⟩ ∧
    (full.slot 3).header = some ⟨0x7FF#32, 64⟩ ∧ (full.slot 0).header = none := by decide

/-- `FlagMutators`, `FlagReaders`, `WidenResult`, `NarrowResult`: a slot that is not of the kind required. -/
theorem witness_wrong_kind : (∀ f, full.slot 1 ≠ .fd f) ∧ (∀ f, full.slot 0 ≠ .fd f) ∧ (∀ c, full.slot 2 ≠ .classic c) ∧
    ∀ c, full.slot 0 ≠ .classic c := by
  obtain ⟨h0, h1, h2, _, _⟩ := witness_slots
  rw [h0, h1, h2]
  simp

/-- `AccessorsAgreeAcrossKinds`, the clause about `GERRW`: the default mask has bit 30 clear; a mask that has it set meets
the clause on a word that has it clear. -/
theorem witness_AccessorsAgreeAcrossKinds : Config.default.errMask.getLsbD 30 = false ∧
    (0xFFFFFFFF#32).getLsbD 30 = true ∧ (0x00000007#32).getLsbD 30 = false := by decide

/-- `DecerrDelegates`, `CopyAndClear`, `FeqIsAnEquivalence`: a frame and an `EMPTY` slot. -/
theorem witness_frames : full.slot 1 ≠ .empty ∧ full.slot 2 ≠ .empty ∧ full.slot 0 = .empty := by decide

/-- `FeqDecidesSemanticEquality`: frames equal but for a byte beyond `len`; frames that differ; frames of two kinds. -/
theorem witness_SemEq : SemEq (second.slot 0) (second.slot 1) := by
  refine ⟨rfl, rfl, ?_⟩
  show ∀ k, k < 2 → _
  decide

theorem witness_not_SemEq : ¬ SemEq (second.slot 1) (second.slot 3) ∧ ¬ SemEq (second.slot 1) (second.slot 2) :=
  ⟨fun h => absurd h.1 (by decide), fun h => h⟩

theorem witness_FeqIsAnEquivalence : (second.slot 0).semEq (second.slot 1) = true ∧
    (second.slot 1).semEq (second.slot 0) = true := by decide

/-- `ConversionRoundTrips`: the remote flag clear and set, `len` 9, and an FD frame of 8 bytes. -/
theorem witness_ConversionRoundTrips :
    (0x123#32).getLsbD 30 = false ∧ (0x40000007#32).getLsbD 30 = true ∧ (8#8).toNat ≤ 8 ∧ 8 < (9#8).toNat ∧
    slotWf (full.slot 2) = true := by decide

/-- `DescResult`, `DesfResult`, `ImageRoundTrips`: the length byte on both sides of each bound, the remote flag of the image
clear and set. -/
theorem witness_image_bounds :
    ((portOf 0 0 [1, 0, 0, 0, 8]).port.dinByte 4).toNat ≤ 8 ∧ 8 < ((portOf 0 0 [1, 0, 0, 0, 9]).port.dinByte 4).toNat ∧
    ((portOf 0 0 [1, 0, 0, 0xBF, 64]).port.dinByte 4).toNat ≤ 64 ∧
    (imageWordOf .little (portOf 0 0 [1, 0, 0, 0xBF, 64]).port).getLsbD 30 = false ∧
    64 < ((portOf 0 0 [1, 0, 0, 0, 65]).port.dinByte 4).toNat ∧
    (imageWordOf .big (portOf 0 0 [0x40, 0, 0, 0, 64]).port).getLsbD 30 = true := by decide

/-- The port filled with an image of slot 1 of `full`. -/
def loaded : State := portOf 0 0 ((full.slot 1).image full.cfg)

/-- `ImageRoundTrips`, first clause: a frame of each kind, and a port that holds the image `SER` returned. -/
theorem witness_ImageRoundTrips : loaded.cfg = full.cfg ∧ (full.slot 1).tagCode = 1 ∧ (full.slot 3).tagCode = 2 ∧
    ∃ r, responseOf (exec (.ser 1) full) = some r ∧ ∀ k, k < r.bytes.length → loaded.port.din[k]? = r.bytes[k]? := by
  refine ⟨rfl, by decide, by decide, _, rfl, ?_⟩
  show ∀ k, k < 16 → _
  decide

theorem witness_ImageRoundTrips_fd : ∃ r, responseOf (exec (.ser 3) full) = some r ∧
    ∀ k, k < r.bytes.length → (portOf 0 0 ((full.slot 3).image full.cfg)).port.din[k]? = r.bytes[k]? := by
  refine ⟨_, rfl, ?_⟩
  show ∀ k, k < 72 → _
  decide

/-- `RendReturnsTheText`, `TextLength`, `TextDeterminesTheFrame`: the numerals of a text on the spec's example, and the
digit counts. -/
theorem witness_isNumeral : isNumeral 16 0x12F [0x31#8, 0x32#8, 0x46#8] ∧ isNumeral 10 0 [0x30#8] ∧
    isNumeral 10 255 [0x32#8, 0x35#8, 0x35#8] :=
  ⟨⟨[1, 2, 15], by decide, by decide, by decide, by decide, by decide⟩,
    ⟨[0], by decide, by decide, by decide, by decide, by decide⟩,
    ⟨[2, 5, 5], by decide, by decide, by decide, by decide, by decide⟩⟩

theorem witness_texts : (Slot.text .space (cl 0 0 [])).length = 2 ∧ (Slot.text .space (fdf 0 0 0 [])).length = 5 ∧
    Slot.text .space (second.slot 0) = Slot.text .space (second.slot 1) ∧ slotWf (second.slot 0) = true := by decide

end Sys2Proof.Tests
end

section
/-! SUPPORT. The statements about slots and `STATUS` (10_state.md), and what they rest on: the effect of a command on the
state, said once with the slots and port fields it depends on. -/

namespace Sys2Proof.Machine

open Sys2Proof.Safety

/-! ## Reset -/

/-- Settles O1: the slots by the law of the slot file at reset, the other fields by the value of `State.reset`. -/
theorem resetStateValues : Obligations.ResetStateValues :=
  ⟨State.reset_slot, rfl, rfl, by decide, rfl⟩

/-! ## The effect of a command -/

/-- What a command other than `NOP`, `RDST`, `CLRST` does to the state, apart from the state it is done to: answer `OK`
with no slot written, refuse with a code, or write one slot (10_state.md R13, 60_exceptions.md R163). -/
inductive Effect where
  | answer (val : Word) (bytes : List Byte)
  | refuse (c : StatusCode)
  | write (fd : SlotNo) (v : Slot)

/-- The effect carried out on a state, by the completions of Machine/Ops.lean. -/
def Effect.run (s : State) : Effect → Host.Outcome State Fault Refusal
  | .answer val bytes => s.ok val bytes
  | .refuse c => s.fail c
  | .write fd v => s.okWrite fd v

/-- The effect keeps to the row of a command in the table of 10_state.md R13, with the slots as they were before it: an
`OK` that writes nothing comes from a command that writes no slot, and a slot is written with the tag of the table. -/
def Effect.Fits (i : Instr) (slots : SlotNo → Slot) : Effect → Prop
  | .answer _ _ => writes i = none
  | .refuse c => c ≠ .ok
  | .write fd v => writes i = some fd ∧ v.tagCode = tagWritten i slots

/-- Two outcomes, at two states, come from one effect that fits the command. -/
def SameEffect (i : Instr) (s u : State) (o p : Host.Outcome State Fault Refusal) : Prop :=
  ∃ e : Effect, e.Fits i s.slot ∧ o = e.run s ∧ p = e.run u

section SameEffect

variable {i : Instr} {s u : State}

theorem sameEffect_ok (val : Word) (bytes : List Byte) (hw : writes i = none) :
    SameEffect i s u (s.ok val bytes) (u.ok val bytes) :=
  ⟨.answer val bytes, hw, rfl, rfl⟩

theorem sameEffect_fail (c : StatusCode) (hc : c ≠ .ok) : SameEffect i s u (s.fail c) (u.fail c) :=
  ⟨.refuse c, hc, rfl, rfl⟩

theorem sameEffect_okWrite (fd : SlotNo) (v : Slot) (hw : writes i = some fd) (ht : v.tagCode = tagWritten i s.slot) :
    SameEffect i s u (s.okWrite fd v) (u.okWrite fd v) :=
  ⟨.write fd v, ⟨hw, ht⟩, rfl, rfl⟩

theorem sameEffect_withHeader {fs : SlotNo} (hs : u.slot fs = s.slot fs)
    {k l : Header → Host.Outcome State Fault Refusal} (hk : ∀ h, SameEffect i s u (k h) (l h)) :
    SameEffect i s u (s.withHeader fs k) (u.withHeader fs l) := by
  unfold State.withHeader
  rw [hs]
  cases (s.slot fs).header with
  | none => exact sameEffect_fail _ (by decide)
  | some h => exact hk h

theorem sameEffect_withFrame {fs : SlotNo} (hs : u.slot fs = s.slot fs)
    {k l : Slot → Host.Outcome State Fault Refusal} (hk : SameEffect i s u (k (s.slot fs)) (l (s.slot fs))) :
    SameEffect i s u (s.withFrame fs k) (u.withFrame fs l) := by
  unfold State.withFrame
  rw [hs]
  cases h : s.slot fs with
  | empty => exact sameEffect_fail _ (by decide)
  | classic f | fd f => rwa [h] at hk

theorem sameEffect_withClassic {fs : SlotNo} (hs : u.slot fs = s.slot fs)
    {k l : ClassicFrame → Host.Outcome State Fault Refusal} (hk : ∀ f, SameEffect i s u (k f) (l f)) :
    SameEffect i s u (s.withClassic fs k) (u.withClassic fs l) := by
  unfold State.withClassic
  rw [hs]
  cases s.slot fs with
  | empty | fd => exact sameEffect_fail _ (by decide)
  | classic f => exact hk f

theorem sameEffect_withFd {fs : SlotNo} (hs : u.slot fs = s.slot fs)
    {k l : FdFrame → Host.Outcome State Fault Refusal} (hk : ∀ f, SameEffect i s u (k f) (l f)) :
    SameEffect i s u (s.withFd fs k) (u.withFd fs l) := by
  unfold State.withFd
  rw [hs]
  cases s.slot fs with
  | empty | classic => exact sameEffect_fail _ (by decide)
  | fd f => exact hk f

theorem sameEffect_construct (hp : u.port = s.port) (fd : SlotNo) (n : Nat) (e r x : Bool) (build : Word → Slot)
    (hw : writes i = some fd) (ht : ∀ w, (build w).tagCode = tagWritten i s.slot) :
    SameEffect i s u (s.construct fd n e r x build) (u.construct fd n e r x build) := by
  unfold State.construct
  rw [hp]
  split
  · exact sameEffect_fail _ (by decide)
  split
  exacts [sameEffect_fail _ (by decide), sameEffect_okWrite _ _ hw (ht _)]

/-- At two states that agree on the command port, the parameters and the slots a command reads, the command has one and the
same effect (10_state.md R13, R16). -/
theorem exec_sameEffect (h : isSystem i = false) (hp : u.port = s.port) (hc : u.cfg = s.cfg)
    (hr : ∀ q ∈ reads i, u.slot q.1 = s.slot q.1) : SameEffect i s u (exec i s) (exec i u) := by
  obtain ⟨slots, status, port, rsp, stream, cfg⟩ := u
  obtain rfl : port = s.port := hp
  obtain rfl : cfg = s.cfg := hc
  cases i with
  | nop | rdst | clrst => simp [isSystem] at h
  | idpack err rtr ext =>
    simp only [exec, execIdpack]
    split
    exacts [sameEffect_fail _ (by decide), sameEffect_ok _ _ rfl]
  | idraw | idsem | idflg => exact sameEffect_ok _ _ rfl
  | gkind fs =>
    simp only [exec, execGkind, hr (fs, .anySlot) (by simp [reads])]
    exact sameEffect_ok _ _ rfl
  | cnew fd err rtr ext | crtr fd | fnew fd esi brs err ext =>
    refine sameEffect_construct ?_ fd _ _ _ _ _ ?_ ?_
    exacts [rfl, rfl, fun _ => rfl]
  | frtr fd => exact sameEffect_fail _ (by decide)
  | fsbrs fs on | fsesi fs on =>
    exact sameEffect_withFd (hr (fs, .fdOnly) (by simp [reads])) fun _ => sameEffect_okWrite _ _ rfl rfl
  | fgbrs fs | fgesi fs | fgflg fs =>
    exact sameEffect_withFd (hr (fs, .fdOnly) (by simp [reads])) fun _ => sameEffect_ok _ _ rfl
  | gidw fs | graw fs | gsid fs | glen fs | gerrw fs | giserr fs | gisext fs =>
    exact sameEffect_withHeader (hr (fs, .anyFrame) (by simp [reads])) fun _ => sameEffect_ok _ _ rfl
  | gdata fs =>
    have hs := hr (fs, .anyFrame) (by simp [reads])
    simp only [exec, execGdata, hs]
    exact sameEffect_withHeader hs fun _ => sameEffect_ok _ _ rfl
  | gisrtr fs | ser fs | rend fs =>
    simp only [exec, execGisrtr, execSer, execRend, State.okBytes]
    refine sameEffect_withFrame (hr (fs, .anyFrame) (by simp [reads])) ?_
    exact sameEffect_ok _ _ rfl
  | decerr fs =>
    simp only [exec, execDecerr, decerrWith]
    refine sameEffect_withFrame (hr (fs, .anyFrame) (by simp [reads])) ?_
    split
    exacts [sameEffect_ok _ _ rfl, sameEffect_fail _ (by decide)]
  | widen fd fs =>
    exact sameEffect_withClassic (hr (fs, .classicOnly) (by simp [reads])) fun _ => sameEffect_okWrite _ _ rfl rfl
  | narrow fd fs =>
    refine sameEffect_withFd (hr (fs, .fdOnly) (by simp [reads])) fun f => ?_
    split
    exacts [sameEffect_fail _ (by decide), sameEffect_okWrite _ _ rfl rfl]
  | fmov fd fs =>
    simp only [exec, execFmov]
    refine sameEffect_withFrame (hr (fs, .anyFrame) (by simp [reads])) ?_
    exact sameEffect_okWrite _ _ rfl rfl
  | fclr fd => exact sameEffect_okWrite _ _ rfl rfl
  | feq fs ft =>
    simp only [exec, execFeq]
    refine sameEffect_withFrame (hr (fs, .anyFrame) (by simp [reads])) ?_
    refine sameEffect_withFrame (hr (ft, .anyFrame) (by simp [reads])) ?_
    exact sameEffect_ok _ _ rfl
  | desc fd =>
    simp only [exec, execDesc]
    split
    exacts [sameEffect_fail _ (by decide), sameEffect_okWrite _ _ rfl rfl]
  | desf fd =>
    simp only [exec, execDesf]
    split
    · exact sameEffect_fail _ (by decide)
    split
    exacts [sameEffect_fail _ (by decide), sameEffect_okWrite _ _ rfl rfl]

end SameEffect

/-- The system commands read and write no slot: another slot value goes through them (47_system.md R150). -/
theorem exec_system_setSlot {i : Instr} (h : isSystem i = true) (s : State) (k : SlotNo) (v : Slot) :
    ∃ t, exec i s = .next t ∧ exec i (s.setSlot k v) = .next (t.setSlot k v) := by
  cases i <;> simp only [isSystem, Bool.false_eq_true] at h
  all_goals exact ⟨_, rfl, rfl⟩

/-- No system command writes a slot. -/
theorem isSystem_eq_false_of_writes {i : Instr} {fd : SlotNo} (h : writes i = some fd) : isSystem i = false := by
  cases hs : isSystem i with
  | false => rfl
  | true => cases i <;> simp_all [isSystem, writes]

/-! ## Refused tags -/

theorem withHeader_refused {s : State} {fs : SlotNo} (h : TagReq.anyFrame.accepts (s.slot fs) = false)
    (k : Header → Host.Outcome State Fault Refusal) : s.withHeader fs k = s.fail .eKind := by
  rcases withHeader_cases s fs k with ⟨_, hk⟩ | ⟨x, hx, _⟩
  · exact hk
  · cases hs : s.slot fs <;> simp_all [TagReq.accepts, Slot.header]

theorem withFrame_refused {s : State} {fs : SlotNo} (h : TagReq.anyFrame.accepts (s.slot fs) = false)
    (k : Slot → Host.Outcome State Fault Refusal) : s.withFrame fs k = s.fail .eKind := by
  rcases withFrame_cases s fs k with ⟨_, hk⟩ | ⟨hs, _⟩
  · exact hk
  · cases hv : s.slot fs <;> simp_all [TagReq.accepts]

theorem withClassic_refused {s : State} {fs : SlotNo} (h : TagReq.classicOnly.accepts (s.slot fs) = false)
    (k : ClassicFrame → Host.Outcome State Fault Refusal) : s.withClassic fs k = s.fail .eKind := by
  rcases withClassic_cases s fs k with ⟨f, hf, _⟩ | ⟨_, hk⟩
  · simp [hf, TagReq.accepts] at h
  · exact hk

theorem withFd_refused {s : State} {fs : SlotNo} (h : TagReq.fdOnly.accepts (s.slot fs) = false)
    (k : FdFrame → Host.Outcome State Fault Refusal) : s.withFd fs k = s.fail .eKind := by
  rcases withFd_cases s fs k with ⟨f, hf, _⟩ | ⟨_, hk⟩
  · simp [hf, TagReq.accepts] at h
  · exact hk

/-- Two tag checks in a row refuse when either slot is refused. -/
theorem withFrame_withFrame_refused {s : State} {fs ft : SlotNo}
    (h : TagReq.anyFrame.accepts (s.slot fs) = false ∨ TagReq.anyFrame.accepts (s.slot ft) = false)
    (k : Slot → Slot → Host.Outcome State Fault Refusal) :
    (s.withFrame fs fun a => s.withFrame ft (k a)) = s.fail .eKind := by
  rcases h with h | h
  · exact withFrame_refused h _
  · rcases withFrame_cases s fs fun a => s.withFrame ft (k a) with ⟨_, hk⟩ | ⟨_, hk⟩
    · exact hk
    · rw [hk, withFrame_refused h]

/-- A command that reads a slot whose tag it does not accept completes `E_KIND` (60_exceptions.md R162 step 2). -/
theorem exec_refused {i : Instr} {s : State} (h : ∃ q ∈ reads i, q.2.accepts (s.slot q.1) = false) :
    exec i s = s.fail .eKind := by
  cases i with
  | nop | rdst | clrst | idpack _ _ _ | idraw | idsem | idflg | cnew _ _ _ _ | crtr _ | fnew _ _ _ _ _ | frtr _ | fclr _
  | desc _ | desf _ => simp [reads] at h
  | gkind fs => simp [reads, TagReq.accepts] at h
  | fsbrs fs _ | fsesi fs _ | fgbrs fs | fgesi fs | fgflg fs | narrow _ fs =>
    exact withFd_refused (by simpa [reads] using h) _
  | gidw fs | graw fs | gsid fs | glen fs | gerrw fs | giserr fs | gisext fs | gdata fs =>
    exact withHeader_refused (by simpa [reads] using h) _
  | gisrtr fs | decerr fs | ser fs | rend fs | fmov _ fs =>
    simp only [exec, execGisrtr, execDecerr, decerrWith, execSer, execRend, execFmov]
    exact withFrame_refused (by simpa [reads] using h) _
  | widen _ fs => exact withClassic_refused (by simpa [reads] using h) _
  | feq fs ft =>
    simp only [exec, execFeq]
    exact withFrame_withFrame_refused (by simpa [reads] using h) _

/-! ## The slot table -/

/-- A slot a command does not write, or does not complete `OK` on, keeps its value. -/
theorem exec_keeps_slot {i : Instr} {s t : State} {k : SlotNo} (ht : exec i s = .next t)
    (hw : writes i = some k → ∃ r, t.rsp = some r ∧ r.st ≠ .ok) : t.slot k = s.slot k := by
  cases h : isSystem i with
  | true =>
    obtain ⟨x, val, hx⟩ := exec_system i s h
    obtain rfl := Host.Outcome.next.inj (hx.symm.trans ht)
    rfl
  | false =>
    obtain ⟨c, val, bytes, slots, ha, hslots⟩ := exec_completesOnce i s h
    obtain ⟨hrsp, -, hslot, -⟩ := ha.of_next ht
    rcases hslots with ⟨rfl, -⟩ | ⟨fd, v, hfd, rfl, rfl⟩
    · exact hslot k
    · have hk : k ≠ fd := by
        rintro rfl
        obtain ⟨r, hr, hne⟩ := hw hfd
        exact hne (by rw [Option.some.inj (hr.symm.trans hrsp)])
      simpa [slotsWith, hk] using hslot k

/-- An effect that fits a command which writes a slot, and completes `OK`, writes that slot, with the tag of the table. -/
theorem Effect.Fits.eq_write_of_ok {e : Effect} {i : Instr} {slots : SlotNo → Slot} {s t : State} {fd : SlotNo}
    (hfit : e.Fits i slots) (hw : writes i = some fd) (ht : e.run s = .next t) (hok : ∃ r, t.rsp = some r ∧ r.st = .ok) :
    ∃ v, e = .write fd v ∧ v.tagCode = tagWritten i slots := by
  cases e with
  | answer val bytes => simp [Effect.Fits, hw] at hfit
  | refuse c =>
    obtain ⟨hrsp, -⟩ := (answers_fail s c).of_next ht
    obtain ⟨r, hr, hst⟩ := hok
    exact absurd (by rw [← hst, Option.some.inj (hr.symm.trans hrsp)]) hfit
  | write fd' v =>
    obtain ⟨hfd, htag⟩ := hfit
    obtain rfl : fd' = fd := Option.some.inj (hfd.symm.trans hw)
    exact ⟨v, rfl, htag⟩

/-- The slot written by a command that completes `OK` has the tag of the table. -/
theorem exec_tagWritten {i : Instr} {s t : State} {fd : SlotNo} (ht : exec i s = .next t) (hw : writes i = some fd)
    (hok : ∃ r, t.rsp = some r ∧ r.st = .ok) : (t.slot fd).tagCode = tagWritten i s.slot := by
  obtain ⟨e, hfit, he, -⟩ :=
    exec_sameEffect (s := s) (u := s) (isSystem_eq_false_of_writes hw) rfl rfl fun _ _ => rfl
  rw [he] at ht
  obtain ⟨v, rfl, htag⟩ := hfit.eq_write_of_ok hw ht hok
  obtain ⟨-, -, hslot, -⟩ := (answers_okWrite s fd v).of_next ht
  rw [hslot, slotsWith, if_pos rfl, htag]

/-- Outcomes at two states from one effect: the same response, the same slots but for one in which the states differ, and
in that one too when the effect writes it. -/
theorem Effect.run_setSlot (e : Effect) (s : State) (k : SlotNo) (v : Slot) :
    ∃ t u, e.run s = .next t ∧ e.run (s.setSlot k v) = .next u ∧ u.rsp = t.rsp ∧ u.status = t.status ∧
      (∀ j, j ≠ k → u.slot j = t.slot j) ∧ ∀ w, e = .write k w → u.slot k = t.slot k := by
  cases e with
  | answer val bytes | refuse c =>
    exact ⟨_, _, rfl, rfl, rfl, rfl, fun j hj => by simp [hj], by simp⟩
  | write fd w =>
    refine ⟨_, _, rfl, rfl, rfl, rfl, fun j hj => by simp [hj], ?_⟩
    rintro w ⟨⟩
    simp

/-- A slot the table does not list as read has no influence: not on the response and `STATUS`, not on the other slots, and
not on what is written over it. -/
theorem exec_setSlot_of_not_read {i : Instr} (s : State) {k : SlotNo} (v : Slot) (hr : ∀ q ∈ reads i, q.1 ≠ k) :
    ∃ t u, exec i s = .next t ∧ exec i (s.setSlot k v) = .next u ∧ u.rsp = t.rsp ∧ u.status = t.status ∧
      (∀ j, j ≠ k → u.slot j = t.slot j) ∧
      (writes i = some k → (∃ r, t.rsp = some r ∧ r.st = .ok) → u.slot k = t.slot k) := by
  cases h : isSystem i with
  | true =>
    obtain ⟨t, ht, hu⟩ := exec_system_setSlot h s k v
    refine ⟨t, t.setSlot k v, ht, hu, rfl, rfl, fun j hj => by simp [hj], fun hw => ?_⟩
    simp [isSystem_eq_false_of_writes hw] at h
  | false =>
    obtain ⟨e, hfit, he, he'⟩ := exec_sameEffect (s := s) (u := s.setSlot k v) h rfl rfl
      fun q hq => State.slot_setSlot_ne s k q.1 v (hr q hq)
    obtain ⟨t, u, ht, hu, hrsp, hstatus, hother, hwritten⟩ := e.run_setSlot s k v
    refine ⟨t, u, he.trans ht, he'.trans hu, hrsp, hstatus, hother, fun hw hok => ?_⟩
    obtain ⟨w, rfl, -⟩ := hfit.eq_write_of_ok hw ht hok
    exact hwritten w rfl

/-! ## Conversion in place -/

/-- A command with its destination at `fs` and the same command with its destination at `fd` fail alike, or write the one
value each to its own destination. -/
def WritesAlike (s : State) (fs fd : SlotNo) (o p : Host.Outcome State Fault Refusal) : Prop :=
  (∃ c, c ≠ .ok ∧ o = s.fail c ∧ p = s.fail c) ∨ ∃ v, o = s.okWrite fs v ∧ p = s.okWrite fd v

theorem WritesAlike.slot_eq {s t u : State} {fs fd : SlotNo} {o p : Host.Outcome State Fault Refusal}
    (h : WritesAlike s fs fd o p) (ht : o = .next t) (hu : p = .next u) (hok : responseOf o = some ⟨.ok, 0, []⟩) :
    t.slot fs = u.slot fd := by
  rcases h with ⟨c, hc, rfl, -⟩ | ⟨v, rfl, rfl⟩
  · rw [(answers_fail s c).response] at hok
    exact absurd (congrArg Response.st (Option.some.inj hok)) hc
  · obtain ⟨-, -, hslot, -⟩ := (answers_okWrite s fs v).of_next ht
    obtain ⟨-, -, hslot', -⟩ := (answers_okWrite s fd v).of_next hu
    rw [hslot, hslot', slotsWith, slotsWith, if_pos rfl, if_pos rfl]

section InPlace

variable (s : State) (fd fs : SlotNo)

theorem widen_writesAlike : WritesAlike s fs fd (exec (.widen fs fs) s) (exec (.widen fd fs) s) := by
  simp only [exec, execWiden, State.withClassic]
  cases s.slot fs with
  | empty | fd => exact .inl ⟨.eKind, by decide, rfl, rfl⟩
  | classic c => exact .inr ⟨_, rfl, rfl⟩

theorem narrow_writesAlike : WritesAlike s fs fd (exec (.narrow fs fs) s) (exec (.narrow fd fs) s) := by
  simp only [exec, execNarrow, State.withFd]
  cases s.slot fs with
  | empty | classic => exact .inl ⟨.eKind, by decide, rfl, rfl⟩
  | fd f =>
    dsimp only
    split
    exacts [.inl ⟨.tooMuchData, by decide, rfl, rfl⟩, .inr ⟨_, rfl, rfl⟩]

theorem fmov_writesAlike : WritesAlike s fs fd (exec (.fmov fs fs) s) (exec (.fmov fd fs) s) := by
  simp only [exec, execFmov, State.withFrame]
  cases s.slot fs with
  | empty => exact .inl ⟨.eKind, by decide, rfl, rfl⟩
  | classic | fd => exact .inr ⟨_, rfl, rfl⟩

end InPlace

/-- Settles O17, one lemma a clause: the frame of a command, its refused tags, the tag it writes, the slots it does not
read, and the conversions in place. -/
theorem slotAccessTable : Obligations.SlotAccessTable := by
  refine ⟨fun i s t k => exec_keeps_slot, fun i s h => ?_, fun i s t fd => exec_tagWritten,
    fun i s k v => exec_setSlot_of_not_read s v, fun s t u fd fs => ⟨?_, ?_, ?_⟩⟩
  · rw [exec_refused h]
    exact answers_fail s .eKind
  · exact (widen_writesAlike s fd fs).slot_eq
  · exact (narrow_writesAlike s fd fs).slot_eq
  · exact (fmov_writesAlike s fd fs).slot_eq

/-! ## The status register -/

/-- An effect gives the same response and slots whatever `STATUS` was. -/
theorem Effect.run_status (e : Effect) (s : State) (x : Status) :
    ∃ t u, e.run s = .next t ∧ e.run { s with status := x } = .next u ∧ u.rsp = t.rsp ∧ u.slots = t.slots := by
  cases e <;> exact ⟨_, _, rfl, rfl, rfl, rfl⟩

/-- Only `RDST` reads `STATUS` (10_state.md R16). -/
theorem exec_status_of_ne_rdst {i : Instr} (hi : i ≠ .rdst) (s : State) (x : Status) :
    ∃ t u, exec i s = .next t ∧ exec i { s with status := x } = .next u ∧ u.rsp = t.rsp ∧ u.slots = t.slots := by
  cases h : isSystem i with
  | true =>
    cases i <;> simp_all only [isSystem, Bool.false_eq_true, ne_eq, not_true_eq_false]
    all_goals exact ⟨_, _, rfl, rfl, rfl, rfl⟩
  | false =>
    obtain ⟨e, -, he, he'⟩ := exec_sameEffect (s := s) (u := { s with status := x }) h rfl rfl fun _ _ => rfl
    obtain ⟨t, u, ht, hu, hsame⟩ := e.run_status s x
    exact ⟨t, u, he.trans ht, he'.trans hu, hsame⟩

/-- A command word other than a legal `NOP`, `RDST` or `CLRST` answers with some code, an illegal one with `E_ILLEGAL`. -/
theorem step_answers_of_not_system {s : State} {c : Command} {rest : List HostEvent} (hs : s.stream = .command c :: rest)
    (h : ∀ i, decode c.cw = .ok i → isSystem i = false) :
    ∃ st val bytes slots, Answers (step s) (s.present c rest) st val bytes slots := by
  rw [step_command hs]
  cases hd : decode c.cw with
  | error e => exact ⟨_, _, _, _, answers_fail _ .eIllegal⟩
  | ok i =>
    obtain ⟨st, val, bytes, slots, ha, -⟩ := exec_completesOnce i (s.present c rest) (h i hd)
    exact ⟨st, val, bytes, slots, ha⟩

theorem Status.clear_word : Status.clear.word = 0 := by decide

/-- Settles O15: the system commands by their meanings, every other word by the `STATUS` update of `Answers`, and the
independence from `STATUS` by the one effect of a command. -/
theorem statusUpdateRule : Obligations.StatusUpdateRule := by
  refine ⟨fun s t c rest r hs ht hr => ⟨?_, fun hd => ?_, fun h => ?_⟩, fun i s x hi => ?_⟩
  · rintro (hd | hd) <;> rw [step_command hs, hd] at ht <;> cases ht <;> rfl
  · rw [step_command hs, hd] at ht
    cases ht
    exact Status.clear_word
  · obtain ⟨st, val, bytes, slots, ha⟩ := step_answers_of_not_system hs h
    obtain ⟨hrsp, hstatus, -⟩ := ha.of_next ht
    obtain rfl := Option.some.inj (hr.symm.trans hrsp)
    rw [hstatus]
    exact ⟨rfl, rfl⟩
  · obtain ⟨t, u, ht, hu, hrsp, hslots⟩ := exec_status_of_ne_rdst hi s x
    rw [ht, hu]
    refine ⟨hrsp, ?_⟩
    rintro _ _ ⟨⟩ ⟨⟩
    exact hslots

/-! ## Semantic equality -/

/-- Buffers of one size agree at an index as read, zero beyond the end, exactly when they agree there as they are. -/
theorem bufByte_eq_iff {n : Nat} (a b : Vector Byte n) (k : Nat) : bufByte a k = bufByte b k ↔ a[k]? = b[k]? := by
  by_cases hk : k < n
  · simp [bufByte, hk]
  · simp [bufByte, hk]

/-- The machine's semantic equality is the one of 10_state.md R24. -/
theorem semEq_iff (a b : Slot) : a.semEq b = true ↔ SemEq a b := by
  cases a <;> cases b <;> simp [Slot.semEq, SemEq, bufByte_eq_iff, and_assoc]

/-- `FEQ` on two frames answers whether they are semantically equal. -/
theorem exec_feq_of_ne_empty {s : State} {fs ft : SlotNo} (hs : s.slot fs ≠ .empty) (ht : s.slot ft ≠ .empty) :
    exec (.feq fs ft) s = s.ok (boolWord ((s.slot fs).semEq (s.slot ft))) [] := by
  simp only [exec, execFeq]
  rcases withFrame_cases s fs _ with ⟨h, _⟩ | ⟨_, h⟩
  · exact absurd h hs
  rw [h]
  rcases withFrame_cases s ft _ with ⟨h, _⟩ | ⟨_, h⟩
  · exact absurd h ht
  exact h

/-- Settles O44: `FEQ` answers `Slot.semEq`, which is `SemEq`; an `EMPTY` slot has a refused tag. -/
theorem feqDecidesSemanticEquality : Obligations.FeqDecidesSemanticEquality := by
  refine fun s fs ft => ⟨fun hs ht h => ?_, fun hs ht h => ?_, fun h => ?_⟩
  · rw [exec_feq_of_ne_empty hs ht, (semEq_iff _ _).2 h]
    exact answers_ok s 1 []
  · rw [exec_feq_of_ne_empty hs ht, Bool.eq_false_iff.2 (mt (semEq_iff _ _).1 h)]
    exact answers_ok s 0 []
  · have href : ∃ q ∈ reads (.feq fs ft), q.2.accepts (s.slot q.1) = false := by
      rcases h with h | h <;> simp [reads, h, TagReq.accepts]
    rw [exec_refused href]
    exact answers_fail s .eKind

end Sys2Proof.Machine
end

section
/-! SUPPORT. The statement about runs (20_memory.md R38), and what it rests on: a command reads nothing of the stream
behind it and carries it over as it is, so it does the same with others behind it as it does alone. -/

namespace Sys2Proof.Machine

open Sys2Proof.Safety

/-- An effect carries the stream over, whatever it is. -/
theorem Effect.run_stream (e : Effect) (s : State) (rest : List HostEvent) :
    ∃ t, e.run s = .next t ∧ e.run { s with stream := rest } = .next { t with stream := rest } := by
  cases e <;> exact ⟨_, rfl, rfl⟩

/-- A system command carries the stream over, whatever it is. -/
theorem exec_system_stream {i : Instr} (h : isSystem i = true) (s : State) (rest : List HostEvent) :
    ∃ t, exec i s = .next t ∧ exec i { s with stream := rest } = .next { t with stream := rest } := by
  cases i <;> simp only [isSystem, Bool.false_eq_true] at h
  all_goals exact ⟨_, rfl, rfl⟩

/-- A command carries the stream over, whatever it is. -/
theorem exec_stream (i : Instr) (s : State) (rest : List HostEvent) :
    ∃ t, exec i s = .next t ∧ exec i { s with stream := rest } = .next { t with stream := rest } := by
  cases h : isSystem i with
  | true => exact exec_system_stream h s rest
  | false =>
    obtain ⟨e, -, he, he'⟩ := exec_sameEffect (s := s) (u := { s with stream := rest }) h rfl rfl fun _ _ => rfl
    rw [he, he']
    exact e.run_stream s rest

/-- A step that takes a command does the same with other events behind the command as with none. -/
theorem step_command_stream (s : State) (c : Command) (rest : List HostEvent) :
    ∃ t, step { s with stream := [.command c] } = .next t ∧
      step { s with stream := .command c :: rest } = .next { t with stream := rest } := by
  rw [step_command (c := c) (rest := []) rfl, step_command (c := c) (rest := rest) rfl]
  cases decode c.cw with
  | error e => exact Effect.run_stream (.refuse .eIllegal) (s.present c []) rest
  | ok i => exact exec_stream i (s.present c []) rest

/-- `runOne` is the step that takes the command, but for the events behind it, which stay. -/
theorem step_command_eq_runOne (s : State) (c : Command) (rest : List HostEvent) :
    step { s with stream := .command c :: rest } = .next { runOne s c with stream := rest } := by
  obtain ⟨t, ht, hrest⟩ := step_command_stream s c rest
  rw [hrest, runOne, ht]

/-- `runOne` does not read the stream of the state it starts from, and leaves none. -/
theorem runOne_clear_stream (s : State) (c : Command) :
    runOne { s with stream := [] } c = { runOne s c with stream := [] } := by
  rw [runOne.eq_def { s with stream := [] }, step_command_eq_runOne s c []]

/-- A run over a presented list of commands: the first is taken as `runOne` takes it, the others stay presented. -/
theorem run_command_cons (s : State) (c : Command) (cs : List Command) :
    Host.Core.run core (c :: cs).length { s with stream := (c :: cs).map .command } =
      Host.Core.run core cs.length { runOne s c with stream := cs.map .command } := by
  have h : core.step { s with stream := .command c :: cs.map .command } = _ := step_command_eq_runOne s c _
  simp only [List.length_cons, List.map_cons, Host.Core.run, h]

/-- Settles O9, by induction on the command list, for every start state. -/
theorem runIsFoldOfSteps : Obligations.RunIsFoldOfSteps := by
  intro s cs
  induction cs generalizing s with
  | nil => rfl
  | cons c cs ih =>
    have hfold : (c :: cs).foldl runOne { s with stream := [] } = cs.foldl runOne { runOne s c with stream := [] } :=
      congrArg (cs.foldl runOne) (runOne_clear_stream s c)
    calc Host.Core.run core (c :: cs).length { s with stream := (c :: cs).map .command }
      _ = Host.Core.run core cs.length { runOne s c with stream := cs.map .command } := run_command_cons s c cs
      _ = .next (cs.foldl runOne { runOne s c with stream := [] }) := ih (runOne s c)
      _ = .next ((c :: cs).foldl runOne { s with stream := [] }) := congrArg Host.Outcome.next hfold.symm

end Sys2Proof.Machine
end

section
/-! SUPPORT. The statement about illegal command words (30_encoding.md R58), and what it rests on: the decoder accepts a
word exactly when it is an instance of a row of the table, and no decoded command completes outside the statuses of
60_exceptions.md section 2. -/

namespace Sys2Proof

open Sys2Proof.Safety

/-! ## The decoder and the rows of the table -/

theorem opcField_and (v w : Word) : opcField (v &&& w) = opcField v &&& opcField w := BitVec.extractLsb'_and

/-- Every format compares all eight bits of the opcode (30_encoding.md R55). -/
theorem opcField_mask (f : Format) : opcField f.mask = BitVec.allOnes 8 := by cases f <;> decide

theorem opcField_pattern (r : OpRow) : opcField r.pattern = r.opc := by
  apply BitVec.eq_of_toNat_eq
  have := r.opc.isLt
  simp only [opcField, OpRow.pattern, BitVec.extractLsb'_toNat, BitVec.toNat_shiftLeft, BitVec.toNat_setWidth,
    Nat.shiftLeft_eq, Nat.shiftRight_eq_div_pow]
  omega

/-- A word is an instance of a row of the opcode map: it has the row's pattern under the mask of the row's format. -/
def OpRow.Matches (r : OpRow) (w : Word) : Prop := w &&& r.format.mask = r.pattern

/-- An instance of a row has the row's opcode. -/
theorem OpRow.Matches.opcField_eq {r : OpRow} {w : Word} (h : r.Matches w) : opcField w = r.opc := by
  calc opcField w
    _ = opcField (w &&& r.format.mask) := by rw [opcField_and, opcField_mask, BitVec.and_allOnes]
    _ = r.opc := by rw [h, opcField_pattern]

/-- No two rows of the opcode map share an opcode (30_encoding.md R57). -/
theorem opRows_opc_nodup : (opRows.map OpRow.opc).Nodup := by decide

/-- Looking the opcode of an instance up finds its row. -/
theorem find?_opRows_of_matches {r : OpRow} {w : Word} (hr : r ∈ opRows) (h : r.Matches w) :
    opRows.find? (fun q => q.opc == opcField w) = some r := by
  cases hf : opRows.find? (fun q => q.opc == opcField w) with
  | none => exact absurd h.opcField_eq.symm (by simpa using List.find?_eq_none.1 hf r hr)
  | some q =>
    have hq : q.opc = opcField w := by simpa using List.find?_some hf
    rw [List.inj_on_of_nodup_map opRows_opc_nodup (List.mem_of_find?_eq_some hf) hr (hq.trans h.opcField_eq)]

/-- What the decoder accepts, and what it reads from the word: the command of the row whose instance the word is
(30_encoding.md R60). -/
theorem decode_eq_ok_iff {w : Word} {i : Instr} :
    decode w = .ok i ↔ ∃ r ∈ opRows, r.Matches w ∧ r.build w = i := by
  constructor
  · intro h
    unfold decode at h
    split at h
    · cases h
    next r hf =>
      split at h
      · cases h
        exact ⟨r, List.mem_of_find?_eq_some hf, ‹_›, rfl⟩
      · cases h
  · rintro ⟨r, hr, h, rfl⟩
    simp only [decode, find?_opRows_of_matches hr h]
    exact if_pos h

/-- The reference table holds the masks and patterns of the opcode map. -/
theorem tableRows_eq_map_opRows : tableRows = opRows.map fun r => (r.format.mask, r.pattern) := by decide

theorem isLegalWord_iff_matches (w : Word) : isLegalWord w ↔ ∃ r ∈ opRows, r.Matches w := by
  simp [isLegalWord, tableRows_eq_map_opRows, OpRow.Matches]

/-- The decoder accepts exactly the instances of the table's rows. -/
theorem exists_decode_eq_ok_iff (w : Word) : (∃ i, decode w = .ok i) ↔ isLegalWord w := by
  simp only [decode_eq_ok_iff, isLegalWord_iff_matches]
  exact ⟨fun ⟨_, r, hr, h, _⟩ => ⟨r, hr, h⟩, fun ⟨r, hr, h⟩ => ⟨_, r, hr, h, rfl⟩⟩

/-- The decoder refuses a word that is no instance of a row. -/
theorem decode_of_not_isLegalWord {w : Word} (h : ¬ isLegalWord w) : ∃ e, decode w = .error e := by
  cases hd : decode w with
  | error e => exact ⟨e, rfl⟩
  | ok i => exact absurd ((exists_decode_eq_ok_iff w).1 ⟨i, hd⟩) h

end Sys2Proof

namespace Sys2Proof.Machine

open Sys2Proof.Safety

/-! ## The statuses of a decoded command -/

/-- The outcome carries a response, with one of the given codes. -/
def RespondsAmong (codes : List StatusCode) (o : Host.Outcome State Fault Refusal) : Prop :=
  ∃ r, responseOf o = some r ∧ r.st ∈ codes

section RespondsAmong

variable {codes : List StatusCode} {s : State}

theorem respondsAmong_ok (val : Word) (bytes : List Byte) (h : .ok ∈ codes := by simp [possibleStatuses]) :
    RespondsAmong codes (s.ok val bytes) :=
  ⟨_, (answers_ok s val bytes).response, h⟩

theorem respondsAmong_okWrite (fd : SlotNo) (v : Slot) (h : .ok ∈ codes := by simp [possibleStatuses]) :
    RespondsAmong codes (s.okWrite fd v) :=
  ⟨_, (answers_okWrite s fd v).response, h⟩

theorem respondsAmong_fail (c : StatusCode) (h : c ∈ codes := by simp [possibleStatuses]) :
    RespondsAmong codes (s.fail c) :=
  ⟨_, (answers_fail s c).response, h⟩

theorem respondsAmong_withHeader (fs : SlotNo) {k : Header → Host.Outcome State Fault Refusal}
    (hk : ∀ x, RespondsAmong codes (k x)) (h : .eKind ∈ codes := by simp [possibleStatuses]) :
    RespondsAmong codes (s.withHeader fs k) := by
  rcases withHeader_cases s fs k with ⟨_, he⟩ | ⟨x, _, he⟩ <;> rw [he]
  exacts [respondsAmong_fail _ h, hk x]

theorem respondsAmong_withFrame (fs : SlotNo) {k : Slot → Host.Outcome State Fault Refusal}
    (hk : ∀ v, RespondsAmong codes (k v)) (h : .eKind ∈ codes := by simp [possibleStatuses]) :
    RespondsAmong codes (s.withFrame fs k) := by
  rcases withFrame_cases s fs k with ⟨_, he⟩ | ⟨_, he⟩ <;> rw [he]
  exacts [respondsAmong_fail _ h, hk _]

theorem respondsAmong_withClassic (fs : SlotNo) {k : ClassicFrame → Host.Outcome State Fault Refusal}
    (hk : ∀ f, RespondsAmong codes (k f)) (h : .eKind ∈ codes := by simp [possibleStatuses]) :
    RespondsAmong codes (s.withClassic fs k) := by
  rcases withClassic_cases s fs k with ⟨f, _, he⟩ | ⟨_, he⟩ <;> rw [he]
  exacts [hk f, respondsAmong_fail _ h]

theorem respondsAmong_withFd (fs : SlotNo) {k : FdFrame → Host.Outcome State Fault Refusal}
    (hk : ∀ f, RespondsAmong codes (k f)) (h : .eKind ∈ codes := by simp [possibleStatuses]) :
    RespondsAmong codes (s.withFd fs k) := by
  rcases withFd_cases s fs k with ⟨f, _, he⟩ | ⟨_, he⟩ <;> rw [he]
  exacts [hk f, respondsAmong_fail _ h]

theorem respondsAmong_construct (fd : SlotNo) (n : Nat) (e r x : Bool) (build : Word → Slot) :
    RespondsAmong [.ok, .tooMuchData, .idTooLarge] (s.construct fd n e r x build) := by
  rcases construct_cases s fd n e r x build with ⟨_, he⟩ | ⟨_, _, he⟩ | ⟨w, _, _, he⟩ <;> rw [he]
  exacts [respondsAmong_fail _, respondsAmong_fail _, respondsAmong_okWrite _ _]

end RespondsAmong

/-- A command responds with one of its statuses in the table of 60_exceptions.md section 2. -/
theorem exec_respondsAmong (i : Instr) (s : State) : RespondsAmong (possibleStatuses i) (exec i s) := by
  cases i with
  | nop | rdst | clrst => exact ⟨_, rfl, by simp [possibleStatuses]⟩
  | idpack err rtr ext =>
    simp only [exec, execIdpack]
    split
    exacts [respondsAmong_fail _, respondsAmong_ok _ _]
  | idraw | idsem | idflg | gkind fs => exact respondsAmong_ok _ _
  | cnew fd err rtr ext | crtr fd | fnew fd esi brs err ext => exact respondsAmong_construct fd _ _ _ _ _
  | frtr fd => exact respondsAmong_fail _
  | fsbrs fs on | fsesi fs on => exact respondsAmong_withFd fs fun _ => respondsAmong_okWrite _ _
  | fgbrs fs | fgesi fs | fgflg fs => exact respondsAmong_withFd fs fun _ => respondsAmong_ok _ _
  | gidw fs | graw fs | gsid fs | glen fs | gerrw fs | giserr fs | gisext fs | gdata fs =>
    exact respondsAmong_withHeader fs fun _ => respondsAmong_ok _ _
  | gisrtr fs | ser fs | rend fs =>
    simp only [exec, execGisrtr, execSer, execRend, State.okBytes]
    exact respondsAmong_withFrame fs fun _ => respondsAmong_ok _ _
  | decerr fs =>
    simp only [exec, execDecerr, decerrWith]
    refine respondsAmong_withFrame fs fun v => ?_
    split
    exacts [respondsAmong_ok _ _, respondsAmong_fail _]
  | widen fd fs => exact respondsAmong_withClassic fs fun _ => respondsAmong_okWrite _ _
  | narrow fd fs =>
    refine respondsAmong_withFd fs fun f => ?_
    split
    exacts [respondsAmong_fail _, respondsAmong_okWrite _ _]
  | fmov fd fs => exact respondsAmong_withFrame fs fun _ => respondsAmong_okWrite _ _
  | fclr fd => exact respondsAmong_okWrite _ _
  | feq fs ft =>
    simp only [exec, execFeq]
    exact respondsAmong_withFrame fs fun _ => respondsAmong_withFrame ft fun _ => respondsAmong_ok _ _
  | desc fd =>
    simp only [exec, execDesc]
    split
    exacts [respondsAmong_fail _, respondsAmong_okWrite _ _]
  | desf fd =>
    simp only [exec, execDesf]
    split
    · exact respondsAmong_fail _
    split
    exacts [respondsAmong_fail _, respondsAmong_okWrite _ _]

/-- `E_ILLEGAL` is a status of no legal command. -/
theorem eIllegal_not_mem_possibleStatuses (i : Instr) : .eIllegal ∉ possibleStatuses i := by
  cases i <;> simp [possibleStatuses]

/-- Settles O6: a word outside the table is refused by the decoder, whatever the state and the other port fields; one
inside it is decoded, and its command responds with a status of its own. -/
theorem illegalWordsCompleteWithEIllegal : Obligations.IllegalWordsCompleteWithEIllegal := by
  intro s c rest hs
  rw [step_command hs]
  constructor
  · intro hw
    obtain ⟨e, he⟩ := decode_of_not_isLegalWord hw
    rw [he]
    exact answers_fail (s.present c rest) .eIllegal
  · intro hw
    obtain ⟨i, hi⟩ := (exists_decode_eq_ok_iff c.cw).2 hw
    obtain ⟨r, hr, hmem⟩ := exec_respondsAmong i (s.present c rest)
    rw [hi]
    exact ⟨r, hr, fun h => eIllegal_not_mem_possibleStatuses i (h ▸ hmem)⟩

end Sys2Proof.Machine
end

section
/-! SUPPORT. The statements about the identifier codec (40_identifier_codec.md): each command completes with the value of a
word function of `ARG`, and that function is the reference layout by bit weights. -/

namespace Sys2Proof.Machine

open Sys2Proof.Safety

/-- The three flags in the positions of R74 are their sum by bit weights. -/
theorem flagsWord_eq (w : Word) : flagsWord w = flagBits w := by
  have hsum : ∀ e r x : Bool, boolWord e ||| boolWord r <<< 1 ||| boolWord x <<< 2 =
      BitVec.ofNat 32 (e.toNat + 2 * r.toNat + 4 * x.toNat) := by decide
  rw [flagsWord, flagBits, isExt_eq, isRtr_eq, isErr_eq, hsum]

/-- `IDPACK` of an id in range completes with the identifier word of the reference layout. -/
theorem exec_idpack_of_le {s : State} (err rtr ext : Bool) (h : s.port.arg.toNat ≤ 0x1FFFFFFF) :
    exec (.idpack err rtr ext) s = s.ok (idWord s.port.arg ext rtr err) [] := by
  simp only [exec, execIdpack, packId_of_le ext rtr err h]

/-- `IDPACK` of an id above 29 bits is refused, whatever the flags. -/
theorem exec_idpack_of_lt {s : State} (err rtr ext : Bool) (h : 0x1FFFFFFF < s.port.arg.toNat) :
    exec (.idpack err rtr ext) s = s.fail .idTooLarge := by
  simp only [exec, execIdpack, packId_of_lt ext rtr err h]

theorem exec_idraw (s : State) : exec .idraw s = s.ok (rawWord s.port.arg) [] := by
  simp only [exec, execIdraw, rawId_eq]

theorem exec_idsem (s : State) : exec .idsem s = s.ok (semWord s.port.arg) [] := by
  simp only [exec, execIdsem, semId_toWord]

theorem exec_idflg (s : State) : exec .idflg s = s.ok (flagBits s.port.arg) [] := by
  simp only [exec, execIdflg, flagsWord_eq]

/-- Settles O23: the range check of `pack_id` decides between the packed word and the refusal. -/
theorem idpackResult : Obligations.IdpackResult := by
  refine fun s err rtr ext => ⟨fun h => ?_, fun h => ?_⟩
  · rw [exec_idpack_of_le err rtr ext h]
    exact answers_ok s _ []
  · rw [exec_idpack_of_lt err rtr ext h]
    exact answers_fail s .idTooLarge

/-- Settles O24: the three commands complete with the reference words of `ARG`. -/
theorem unpackResults : Obligations.UnpackResults := by
  intro s
  rw [exec_idraw, exec_idsem, exec_idflg]
  exact ⟨answers_ok s _ [], answers_ok s _ [], answers_ok s _ []⟩

end Sys2Proof.Machine
end

section
/-! SUPPORT. The statements about classic frame construction (41_classic_frame.md): what a constructor answers on each side of
its two bounds, said once for every constructor, and the payload buffers the two commands give it. -/

namespace Sys2Proof.Machine

open Sys2Proof.Safety

/-! ## The three outcomes of a constructor -/

section Construct

variable {s : State} {n : Nat} (fd : SlotNo) (ext rtr err : Bool) (build : Word → Slot)

/-- Both checks passed: the slot is built from the identifier word of the reference layout. -/
theorem construct_of_le (hlen : s.port.dlen.toNat ≤ n) (hid : s.port.arg.toNat ≤ 0x1FFFFFFF) :
    s.construct fd n ext rtr err build = s.okWrite fd (build (idWord s.port.arg ext rtr err)) := by
  have hw := packId_of_le ext rtr err hid
  rcases construct_cases s fd n ext rtr err build with ⟨hlt, _⟩ | ⟨_, hnone, _⟩ | ⟨w, _, hsome, he⟩
  · exact absurd hlen (Nat.not_le_of_lt hlt)
  · simp [hw] at hnone
  · rw [he, Option.some.inj (hw.symm.trans hsome)]

/-- The length check comes first: the id is not looked at. -/
theorem construct_of_dlen_lt (hlen : n < s.port.dlen.toNat) :
    s.construct fd n ext rtr err build = s.fail .tooMuchData := by
  rcases construct_cases s fd n ext rtr err build with ⟨_, he⟩ | ⟨hle, _⟩ | ⟨_, hle, _⟩
  exacts [he, absurd hle (Nat.not_le_of_lt hlen), absurd hle (Nat.not_le_of_lt hlen)]

/-- An id above 29 bits is refused once the length is accepted. -/
theorem construct_of_arg_lt (hlen : s.port.dlen.toNat ≤ n) (hid : 0x1FFFFFFF < s.port.arg.toNat) :
    s.construct fd n ext rtr err build = s.fail .idTooLarge := by
  rcases construct_cases s fd n ext rtr err build with ⟨hlt, _⟩ | ⟨_, _, he⟩ | ⟨w, _, hsome, _⟩
  · exact absurd hlen (Nat.not_le_of_lt hlt)
  · exact he
  · simp [packId_of_lt ext rtr err hid] at hsome

end Construct

/-- What a constructor answers: the slot it writes when both checks pass, and its two failures in order
(41_classic_frame.md R80, 60_exceptions.md R162). -/
theorem construct_answers (s : State) (fd : SlotNo) (n : Nat) (ext rtr err : Bool) (build : Word → Slot) :
    (s.port.dlen.toNat ≤ n → s.port.arg.toNat ≤ 0x1FFFFFFF →
      Answers (s.construct fd n ext rtr err build) s .ok 0 []
        (slotsWith s fd (build (idWord s.port.arg ext rtr err)))) ∧
    (n < s.port.dlen.toNat → Answers (s.construct fd n ext rtr err build) s .tooMuchData 0 [] s.slot) ∧
    (s.port.dlen.toNat ≤ n → 0x1FFFFFFF < s.port.arg.toNat →
      Answers (s.construct fd n ext rtr err build) s .idTooLarge 0 [] s.slot) := by
  refine ⟨fun hlen hid => ?_, fun hlen => ?_, fun hlen hid => ?_⟩
  · rw [construct_of_le fd ext rtr err build hlen hid]
    exact answers_okWrite s fd _
  · rw [construct_of_dlen_lt fd ext rtr err build hlen]
    exact answers_fail s .tooMuchData
  · rw [construct_of_arg_lt fd ext rtr err build hlen hid]
    exact answers_fail s .idTooLarge

/-! ## The two commands -/

/-- The reference payload buffer is the zero-filled buffer of the first `DLEN` bytes of `DIN`. -/
theorem payloadBuffer_eq_zeroFilled (n : Nat) (p : Command) :
    payloadBuffer n p = zeroFilled n p.dlen.toNat p.dinByte := rfl

/-- A payload buffer that takes no byte is all zero. -/
theorem zeroFilled_zero (n : Nat) (f : Nat → Byte) : zeroFilled n 0 f = Vector.replicate n 0 := by
  ext k hk
  simp

theorem exec_cnew (fd : SlotNo) (err rtr ext : Bool) (s : State) :
    exec (.cnew fd err rtr ext) s =
      s.construct fd 8 ext rtr err fun w => .classic ⟨w, s.port.dlen, payloadBuffer 8 s.port⟩ := by
  simp only [exec, execCnew, classicMax, payloadBuffer_eq_zeroFilled]

theorem exec_crtr (fd : SlotNo) (s : State) :
    exec (.crtr fd) s =
      s.construct fd 8 false true false fun w => .classic ⟨w, s.port.dlen, Vector.replicate 8 0⟩ := by
  simp only [exec, execCrtr, classicMax, zeroFilled_zero]

/-- Settles O27: `CNEW` is a constructor with ceiling 8 that fills the payload from `DIN`. -/
theorem cnewResult : Obligations.CnewResult := by
  intro s fd err rtr ext
  rw [exec_cnew]
  exact construct_answers s fd 8 ext rtr err _

/-- Settles O28: `CRTR` is a constructor with ceiling 8, the remote flag alone and a zero payload. -/
theorem crtrResult : Obligations.CrtrResult := by
  intro s fd
  rw [exec_crtr]
  exact construct_answers s fd 8 false true false _

end Sys2Proof.Machine
end

section
/-! SUPPORT. The statements about FD frame construction and flags (42_fd_frame.md): `FNEW` is a constructor with ceiling 64,
`FRTR` a refusal, and the two mutators are one write to an `FD` slot with one mask each. -/

namespace Sys2Proof.Machine

open Sys2Proof.Safety

/-! ## Commands on an FD slot -/

theorem withFd_of_fd {s : State} {fs : SlotNo} {f : FdFrame} (h : s.slot fs = .fd f)
    (k : FdFrame → Host.Outcome State Fault Refusal) : s.withFd fs k = k f := by
  rcases withFd_cases s fs k with ⟨g, hg, he⟩ | ⟨hne, _⟩
  · rw [he, Slot.fd.inj (hg.symm.trans h)]
  · exact absurd h (hne f)

theorem withFd_of_ne_fd {s : State} {fs : SlotNo} (h : ∀ f, s.slot fs ≠ .fd f)
    (k : FdFrame → Host.Outcome State Fault Refusal) : s.withFd fs k = s.fail .eKind := by
  rcases withFd_cases s fs k with ⟨f, hf, _⟩ | ⟨_, he⟩
  · exact absurd hf (h f)
  · exact he

/-! ## Construction -/

/-- The flags byte of a new FD frame, for the four combinations of the two flag arguments (42_fd_frame.md R91). -/
theorem newFlags_eq (cfg : Config) (brs esi : Bool) :
    newFlags cfg brs esi =
      match brs, esi with
      | false, false => 0
      | true, false => cfg.brsMask
      | false, true => cfg.esiMask
      | true, true => cfg.brsMask ||| cfg.esiMask := by
  cases brs <;> cases esi <;> simp [newFlags]

theorem exec_fnew (fd : SlotNo) (esi brs err ext : Bool) (s : State) :
    exec (.fnew fd esi brs err ext) s =
      s.construct fd 64 ext false err fun w =>
        .fd ⟨w, s.port.dlen, newFlags s.cfg brs esi, payloadBuffer 64 s.port⟩ := by
  simp only [exec, execFnew, fdMax, payloadBuffer_eq_zeroFilled]

theorem exec_frtr (fd : SlotNo) (s : State) : exec (.frtr fd) s = s.fail .notConstructible := by
  simp only [exec, execFrtr]

/-- Settles O30: `FNEW` is a constructor with ceiling 64 that never sets the remote flag and fills the payload from `DIN`. -/
theorem fnewResult : Obligations.FnewResult := by
  intro s fd esi brs err ext
  rw [exec_fnew, newFlags_eq]
  exact construct_answers s fd 64 ext false err _

/-- Settles O31: `FRTR` reads neither its operand nor any slot, it only fails. -/
theorem frtrNeverConstructs : Obligations.FrtrNeverConstructs := by
  intro s fd
  rw [exec_frtr]
  exact answers_fail s .notConstructible

/-! ## The two flag mutators -/

theorem exec_fsbrs (fs : SlotNo) (on : Bool) (s : State) :
    exec (.fsbrs fs on) s =
      s.withFd fs fun f => s.okWrite fs (.fd { f with flags := putMask f.flags s.cfg.brsMask on }) := by
  simp only [exec, execFsbrs]

theorem exec_fsesi (fs : SlotNo) (on : Bool) (s : State) :
    exec (.fsesi fs on) s =
      s.withFd fs fun f => s.okWrite fs (.fd { f with flags := putMask f.flags s.cfg.esiMask on }) := by
  simp only [exec, execFsesi]

/-- Settles O32: on an `FD` slot each mutator writes back the frame with `putMask` of its own mask, which is pinned bit by
bit; on any other slot the tag check refuses both. -/
theorem flagMutators : Obligations.FlagMutators := by
  intro s fs on
  rw [exec_fsbrs, exec_fsesi]
  constructor
  · intro f hf
    refine ⟨putMask f.flags s.cfg.brsMask on, putMask f.flags s.cfg.esiMask on,
      putMask_getLsbD f.flags s.cfg.brsMask on, putMask_getLsbD f.flags s.cfg.esiMask on, ?_⟩
    rw [withFd_of_fd hf, withFd_of_fd hf]
    exact ⟨answers_okWrite s fs _, answers_okWrite s fs _⟩
  · intro hne
    rw [withFd_of_ne_fd hne, withFd_of_ne_fd hne]
    exact ⟨answers_fail s .eKind, answers_fail s .eKind⟩

end Sys2Proof.Machine
end

section
/-! SUPPORT. The statements about the frame capability contract (43_frame_contract.md): a tag check passed hands the slot on
to the command's own formula, an `EMPTY` slot is refused by every command but `GKIND`, and each formula is its reference. -/

namespace Sys2Proof.Machine

open Sys2Proof.Safety

/-! ## The tag check on either kind -/

theorem withHeader_of_header {s : State} {fs : SlotNo} {x : Header} (h : (s.slot fs).header = some x)
    (k : Header → Host.Outcome State Fault Refusal) : s.withHeader fs k = k x := by
  rcases withHeader_cases s fs k with ⟨hnone, _⟩ | ⟨y, hy, he⟩
  · simp [h] at hnone
  · rw [he, Option.some.inj (hy.symm.trans h)]

theorem withFrame_of_ne_empty {s : State} {fs : SlotNo} (h : s.slot fs ≠ .empty)
    (k : Slot → Host.Outcome State Fault Refusal) : s.withFrame fs k = k (s.slot fs) := by
  rcases withFrame_cases s fs k with ⟨hempty, _⟩ | ⟨_, he⟩
  · exact absurd hempty h
  · exact he

/-- A command that needs a frame in a slot completes `E_KIND` when the slot is `EMPTY` (60_exceptions.md R162 step 2). -/
theorem answers_eKind_of_empty {i : Instr} {s : State} {fs : SlotNo} (hr : reads i = [(fs, .anyFrame)])
    (hs : s.slot fs = .empty) : Answers (exec i s) s .eKind 0 [] s.slot := by
  rw [exec_refused ⟨(fs, .anyFrame), by simp [hr], by simp [hs, TagReq.accepts]⟩]
  exact answers_fail s .eKind

/-! ## The accessors over (`idw`, `len`) -/

/-- What a command answers that is one formula over the header of a slot, whatever its kind (43_frame_contract.md R111). -/
theorem answers_withHeader_ok {s : State} {fs : SlotNo} {x : Header} (h : (s.slot fs).header = some x)
    (value : Header → Word) :
    Answers (s.withHeader fs fun y => s.ok (value y) []) s .ok (value x) [] s.slot := by
  rw [withHeader_of_header h]
  exact answers_ok s _ []

theorem boolWord_eq_bit (b : Bool) : boolWord b = bit b := by cases b <;> rfl

section Accessors

variable (fs : SlotNo) (s : State)

theorem exec_gidw : exec (.gidw fs) s = s.withHeader fs fun x => s.ok x.idw [] := by
  simp only [exec, execGidw]

theorem exec_graw : exec (.graw fs) s = s.withHeader fs fun x => s.ok (rawWord x.idw) [] := by
  simp only [exec, execGraw, rawId_eq]

theorem exec_gsid : exec (.gsid fs) s = s.withHeader fs fun x => s.ok (semWord x.idw) [] := by
  simp only [exec, execGsid, semId_toWord]

theorem exec_glen : exec (.glen fs) s = s.withHeader fs fun x => s.ok (x.len.setWidth 32) [] := by
  simp only [exec, execGlen]

theorem exec_gerrw : exec (.gerrw fs) s = s.withHeader fs fun x => s.ok (x.idw &&& s.cfg.errMask) [] := by
  simp only [exec, execGerrw]

theorem exec_giserr : exec (.giserr fs) s = s.withHeader fs fun x => s.ok (bit (x.idw.getLsbD 29)) [] := by
  simp only [exec, execGiserr, isErr_eq, boolWord_eq_bit]

theorem exec_gisext : exec (.gisext fs) s = s.withHeader fs fun x => s.ok (bit (x.idw.getLsbD 31)) [] := by
  simp only [exec, execGisext, isExt_eq, boolWord_eq_bit]

end Accessors

/-- Settles O35: each accessor is one formula over the header, and that formula is the reference; an `EMPTY` slot is
refused by the tag check all seven share. -/
theorem headerAccessors : Obligations.HeaderAccessors := by
  intro s fs
  constructor
  · intro w n h
    rw [exec_gidw, exec_graw, exec_gsid, exec_glen, exec_gerrw, exec_giserr, exec_gisext]
    refine ⟨?_, ?_, ?_, ?_, ?_, ?_, ?_⟩ <;> exact answers_withHeader_ok h _
  · intro h
    refine ⟨?_, ?_, ?_, ?_, ?_, ?_, ?_⟩ <;> exact answers_eKind_of_empty rfl h

/-! ## The accessors that look at the kind -/

/-- `GISRTR` on a frame answers whether the frame is remote. -/
theorem exec_gisrtr_of_ne_empty {s : State} {fs : SlotNo} (h : s.slot fs ≠ .empty) :
    exec (.gisrtr fs) s = s.ok (bit (s.slot fs).remote) [] := by
  simp only [exec, execGisrtr, boolWord_eq_bit]
  exact withFrame_of_ne_empty h _

theorem Slot.remote_classic (c : ClassicFrame) : (Slot.classic c).remote = c.idw.getLsbD 30 := isRtr_eq c.idw

theorem Slot.remote_fd (f : FdFrame) : (Slot.fd f).remote = false := rfl

/-- The invariant of an `FD` slot keeps bit 30 of its word clear (10_state.md R12 (c)). -/
theorem getLsbD_30_of_slotWf_fd {f : FdFrame} (h : slotWf (.fd f) = true) : f.idw.getLsbD 30 = false := by
  simpa [slotWf] using (Bool.and_eq_true_iff.1 h).2

/-- Settles O36: `GISRTR` answers `Slot.remote`, which is bit 30 on a classic frame and never set on an FD frame. -/
theorem gisrtrResult : Obligations.GisrtrResult := by
  refine fun s fs => ⟨fun c hc => ?_, fun f hf => ⟨?_, fun hwf => ?_⟩, fun h => ?_⟩
  · rw [exec_gisrtr_of_ne_empty (by simp [hc]), hc, Slot.remote_classic]
    exact answers_ok s _ []
  · rw [exec_gisrtr_of_ne_empty (by simp [hf]), hf, Slot.remote_fd]
    exact answers_ok s 0 []
  · rw [getLsbD_30_of_slotWf_fd (hf ▸ hwf)]
    rfl
  · exact answers_eKind_of_empty rfl h

theorem exec_gkind (fs : SlotNo) (s : State) : exec (.gkind fs) s = s.ok (s.slot fs).tagCode [] := by
  simp only [exec, execGkind]

/-- Settles O38: `GKIND` has no tag check and answers `Slot.tagCode`. -/
theorem gkindResult : Obligations.GkindResult := by
  intro s fs
  rw [exec_gkind]
  cases s.slot fs <;> exact answers_ok s _ []

/-! ## The payload -/

/-- `GDATA` on a slot whose payload is the first `len` bytes of a buffer that has at least so many answers those bytes, no
more and no fewer. -/
theorem exec_gdata_answers {s : State} {fs : SlotNo} {x : Header} {n : Nat} (data : Vector Byte n)
    (hx : (s.slot fs).header = some x) (hp : (s.slot fs).payload = data.toList.take x.len.toNat)
    (hn : x.len.toNat ≤ n) :
    ∃ bs, Answers (exec (.gdata fs) s) s .ok (x.len.setWidth 32) bs s.slot ∧ bs.length = x.len.toNat ∧
      ∀ k, k < x.len.toNat → bs[k]? = data[k]? := by
  refine ⟨data.toList.take x.len.toNat, ?_, ?_, fun k hk => ?_⟩
  · simp only [exec, execGdata]
    rw [withHeader_of_header hx, hp]
    exact answers_ok s _ _
  · exact List.length_take_of_le (by rwa [Vector.length_toList])
  · rw [List.getElem?_take_of_lt hk, Vector.getElem?_toList]

/-- Settles O37: both kinds by the one lemma over buffers, with the bound on `len` from the slot invariant. -/
theorem gdataReturnsThePayload : Obligations.GdataReturnsThePayload := by
  refine fun s fs => ⟨fun c hc hwf => ?_, fun f hf hwf => ?_, fun h => ?_⟩
  · have hlen : c.len.toNat ≤ 8 := by simpa [hc, slotWf] using hwf
    exact exec_gdata_answers (x := ⟨c.idw, c.len⟩) c.data (by rw [hc]; rfl) (by rw [hc]; rfl) hlen
  · have hlen : f.len.toNat ≤ 64 := (by simpa [hf, slotWf] using hwf : _ ∧ _).1
    exact exec_gdata_answers (x := ⟨f.idw, f.len⟩) f.data (by rw [hf]; rfl) (by rw [hf]; rfl) hlen
  · exact answers_eKind_of_empty rfl h

/-! ## The error decoder -/

/-- `SER` on a frame answers its image (45_raw_image.md R131). -/
theorem exec_ser_of_ne_empty {s : State} {fs : SlotNo} (h : s.slot fs ≠ .empty) :
    exec (.ser fs) s = s.okBytes ((s.slot fs).image s.cfg) := by
  simp only [exec, execSer]
  exact withFrame_of_ne_empty h _

/-- `DECERR` on a frame is one question to the collaborator, asked whatever the word's flags are. -/
theorem exec_decerr_of_ne_empty {s : State} {fs : SlotNo} (h : s.slot fs ≠ .empty) :
    exec (.decerr fs) s =
      (Config.errDecode (s.slot fs).tagCode ((s.slot fs).image s.cfg)).elim (s.fail .decodeFail) (s.ok · []) := by
  simp only [exec, execDecerr, decerrWith]
  rw [withFrame_of_ne_empty h]
  cases Config.errDecode (s.slot fs).tagCode ((s.slot fs).image s.cfg) <;> rfl

/-- Settles O40: the bytes `SER` answers are the image `DECERR` hands over, and the collaborator's two answers are the two
completions. -/
theorem decerrDelegates : Obligations.DecerrDelegates := by
  refine fun s fs => ⟨fun hne => ?_, fun h => ?_⟩
  · have hser := (answers_okBytes s ((s.slot fs).image s.cfg)).response
    rw [← exec_ser_of_ne_empty hne] at hser
    refine ⟨_, hser, ?_⟩
    rw [exec_decerr_of_ne_empty hne]
    cases Config.errDecode (s.slot fs).tagCode ((s.slot fs).image s.cfg) with
    | some d => exact answers_ok s d []
    | none => exact answers_fail s .decodeFail
  · exact answers_eKind_of_empty rfl h

end Sys2Proof.Machine
end

section
/-! SUPPORT. The statements about the kind conversions and the moves of a whole slot (44_union_conversions.md): each command
is a tag check and one write, and each converted frame is its reference frame field by field. The source is read before the
destination is written, so no proof asks whether `fd = fs` (R120). -/

namespace Sys2Proof.Machine

open Sys2Proof.Safety

/-! ## The tag check on a classic slot -/

theorem withClassic_of_classic {s : State} {fs : SlotNo} {c : ClassicFrame} (h : s.slot fs = .classic c)
    (k : ClassicFrame → Host.Outcome State Fault Refusal) : s.withClassic fs k = k c := by
  rcases withClassic_cases s fs k with ⟨d, hd, he⟩ | ⟨hne, _⟩
  · rw [he, Slot.classic.inj (hd.symm.trans h)]
  · exact absurd h (hne c)

theorem withClassic_of_ne_classic {s : State} {fs : SlotNo} (h : ∀ c, s.slot fs ≠ .classic c)
    (k : ClassicFrame → Host.Outcome State Fault Refusal) : s.withClassic fs k = s.fail .eKind := by
  rcases withClassic_cases s fs k with ⟨c, hc, _⟩ | ⟨_, he⟩
  · exact absurd hc (h c)
  · exact he

/-! ## The converted frames -/

/-- A classic buffer read as 64 bytes: its eight bytes, whatever `len` is, then zeros. -/
theorem filled_bufByte_eq (data : Vector Byte 8) :
    filled 64 (bufByte data) = Vector.ofFn fun k : Fin 64 => if h : k.val < 8 then data[k.val] else 0 := by
  ext k hk
  rw [filled_getElem, Vector.getElem_ofFn]
  split
  case isTrue h => rw [bufByte_of_lt data h]
  case isFalse h => simp [bufByte, h]

theorem ClassicFrame.widen_eq (c : ClassicFrame) :
    c.widen = ⟨withoutRtr c.idw, c.len, 0,
      Vector.ofFn fun k : Fin 64 => if h : k.val < 8 then c.data[k.val] else 0⟩ := by
  rw [ClassicFrame.widen, dropRtr_eq, filled_bufByte_eq]

/-- The first `len` bytes of an FD buffer, cut to eight and zero beyond `len`. -/
theorem zeroFilled_bufByte_eq (data : Vector Byte 64) (len : Nat) :
    zeroFilled 8 len (bufByte data) = Vector.ofFn fun k : Fin 8 => if k.val < len then data[k.val] else 0 := by
  ext k hk
  rw [zeroFilled_getElem, Vector.getElem_ofFn, bufByte_of_lt data (by omega)]

theorem FdFrame.narrow_eq (f : FdFrame) :
    f.narrow = ⟨withoutRtr f.idw, f.len,
      Vector.ofFn fun k : Fin 8 => if k.val < f.len.toNat then f.data[k.val] else 0⟩ := by
  rw [FdFrame.narrow, dropRtr_eq, zeroFilled_bufByte_eq]

/-! ## The commands -/

theorem exec_widen (fd fs : SlotNo) (s : State) :
    exec (.widen fd fs) s = s.withClassic fs fun c => s.okWrite fd (.fd c.widen) := by
  simp only [exec, execWiden]

/-- `NARROW` looks at `len` alone to decide between writing and failing (44_union_conversions.md R122). -/
theorem exec_narrow (fd fs : SlotNo) (s : State) :
    exec (.narrow fd fs) s = s.withFd fs fun f =>
      if 8 < f.len.toNat then s.fail .tooMuchData else s.okWrite fd (.classic f.narrow) := rfl

theorem exec_fmov (fd fs : SlotNo) (s : State) :
    exec (.fmov fd fs) s = s.withFrame fs fun v => s.okWrite fd v := by
  simp only [exec, execFmov]

theorem exec_fclr (fd : SlotNo) (s : State) : exec (.fclr fd) s = s.okWrite fd .empty := by
  simp only [exec, execFclr]

/-- Settles O41: on a `CLASSIC` slot `WIDEN` is one write of `ClassicFrame.widen`, which is the reference frame; the tag
check refuses any other slot. -/
theorem widenResult : Obligations.WidenResult := by
  intro s fd fs
  rw [exec_widen]
  constructor
  · intro c hc
    rw [withClassic_of_classic hc, ClassicFrame.widen_eq]
    exact answers_okWrite s fd _
  · intro hne
    rw [withClassic_of_ne_classic hne]
    exact answers_fail s .eKind

/-- Settles O42: on an `FD` slot `NARROW` is one write of `FdFrame.narrow`, which is the reference frame, or the failure, by
`len`; the tag check refuses any other slot. -/
theorem narrowResult : Obligations.NarrowResult := by
  intro s fd fs
  rw [exec_narrow]
  refine ⟨fun f hf hle => ?_, fun f hf hlt => ?_, fun hne => ?_⟩
  · rw [withFd_of_fd hf, if_neg (Nat.not_lt.2 hle), FdFrame.narrow_eq]
    exact answers_okWrite s fd _
  · rw [withFd_of_fd hf, if_pos hlt]
    exact answers_fail s .tooMuchData
  · rw [withFd_of_ne_fd hne]
    exact answers_fail s .eKind

/-- Settles O43: `FMOV` writes the slot value its tag check hands on, `FCLR` writes `EMPTY` with no check. -/
theorem copyAndClear : Obligations.CopyAndClear := by
  refine fun s fd fs => ⟨fun hne => ?_, fun hempty => ?_, ?_⟩
  · rw [exec_fmov, withFrame_of_ne_empty hne]
    exact answers_okWrite s fd _
  · exact answers_eKind_of_empty rfl hempty
  · rw [exec_fclr]
    exact answers_okWrite s fd .empty

end Sys2Proof.Machine
end

section
/-! SUPPORT. The statements about raw images (45_raw_image.md): both kinds of image have one layout, whose bytes are said
once; `SER` answers it after a tag check, and `DESC` and `DESF` are their checks and one write of the frame read off
`DIN`. -/

namespace Sys2Proof.Machine

open Sys2Proof.Safety

/-! ## The layout of an image -/

/-- What stands before the payload in either image: the identifier word, the byte fields behind it, and padding up to the
data offset (20_memory.md R30, R31, R33). -/
def imageHead (e : Endian) (w : Word) (fields : List Byte) (off : Nat) : List Byte :=
  wordBytes e w ++ fields ++ padding (off - (4 + fields.length))

/-- The layout both images share: the head, the payload buffer at its offset, and padding up to the size. -/
def imageLayout (e : Endian) (w : Word) (fields : List Byte) (off size : Nat) {n : Nat} (data : Vector Byte n) :
    List Byte :=
  imageHead e w fields off ++ data.toList ++ padding (size - (off + n))

theorem classicImage_eq_imageLayout (cfg : Config) (f : ClassicFrame) :
    classicImage cfg f =
      imageLayout cfg.imageEndian f.idw [f.len] cfg.classicDataOffset cfg.classicImageSize f.data := rfl

theorem fdImage_eq_imageLayout (cfg : Config) (f : FdFrame) :
    fdImage cfg f =
      imageLayout cfg.imageEndian f.idw [f.len, f.flags] cfg.fdDataOffset cfg.fdImageSize f.data := by
  simp [fdImage, imageLayout, imageHead]

theorem padding_getElem? {n k : Nat} (hk : k < n) : (padding n)[k]? = some 0 :=
  List.getElem?_replicate_of_lt hk

section Layout

variable {e : Endian} {w : Word} {fields : List Byte} {off size n k : Nat} {data : Vector Byte n}

theorem imageHead_length (hoff : 4 + fields.length ≤ off) : (imageHead e w fields off).length = off := by
  simp [imageHead]
  omega

theorem imageHead_getElem?_word (hk : k < 4) : (imageHead e w fields off)[k]? = some (imageWordByte e w k) := by
  rw [imageHead, List.append_assoc, List.getElem?_append_left (by simpa using hk), wordBytes_getElem? e w k hk]

theorem imageHead_getElem?_field (hk : k < fields.length) : (imageHead e w fields off)[4 + k]? = fields[k]? := by
  rw [imageHead, List.append_assoc, List.getElem?_append_right (by simp), wordBytes_length, Nat.add_sub_cancel_left,
    List.getElem?_append_left hk]

theorem imageHead_getElem?_padding (hlo : 4 + fields.length ≤ k) (hhi : k < off) :
    (imageHead e w fields off)[k]? = some 0 := by
  rw [imageHead, List.getElem?_append_right (by simpa using hlo)]
  exact padding_getElem? (by simp; omega)

variable (hoff : 4 + fields.length ≤ off)
include hoff

theorem imageLayout_getElem?_head (hk : k < off) :
    (imageLayout e w fields off size data)[k]? = (imageHead e w fields off)[k]? := by
  rw [imageLayout, List.append_assoc, List.getElem?_append_left (by rwa [imageHead_length hoff])]

theorem imageLayout_getElem?_data (hk : k < n) : (imageLayout e w fields off size data)[off + k]? = some data[k] := by
  rw [imageLayout, List.append_assoc, List.getElem?_append_right (by simp [imageHead_length hoff]),
    imageHead_length hoff, Nat.add_sub_cancel_left, List.getElem?_append_left (by simpa using hk),
    Vector.getElem?_toList, Vector.getElem?_eq_getElem hk]

theorem imageLayout_getElem?_tail (hlo : off + n ≤ k) (hhi : k < size) :
    (imageLayout e w fields off size data)[k]? = some 0 := by
  have hlen : (imageHead e w fields off ++ data.toList).length = off + n := by simp [imageHead_length hoff]
  rw [imageLayout, List.getElem?_append_right (by rwa [hlen]), hlen]
  exact padding_getElem? (by omega)

/-- The bytes that stand for nothing are zero, before the payload and behind it (20_memory.md R33). -/
theorem imageLayout_getElem?_padding
    (hk : (4 + fields.length ≤ k ∧ k < off) ∨ (off + n ≤ k ∧ k < size)) :
    (imageLayout e w fields off size data)[k]? = some 0 := by
  rcases hk with ⟨hlo, hhi⟩ | ⟨hlo, hhi⟩
  · rw [imageLayout_getElem?_head hoff hhi, imageHead_getElem?_padding hlo hhi]
  · exact imageLayout_getElem?_tail hoff hlo hhi

theorem imageLayout_getElem?_word (hk : k < 4) :
    (imageLayout e w fields off size data)[k]? = some (imageWordByte e w k) := by
  rw [imageLayout_getElem?_head hoff (by omega), imageHead_getElem?_word hk]

theorem imageLayout_getElem?_field (hk : k < fields.length) :
    (imageLayout e w fields off size data)[4 + k]? = fields[k]? := by
  rw [imageLayout_getElem?_head hoff (by omega), imageHead_getElem?_field hk]

end Layout

/-! ## The two images -/

theorem Config.classicImageWf_of_wf {c : Config} (h : c.wf = true) : c.classicImageWf = true := by
  simp_all [Config.wf]

theorem Config.fdImageWf_of_wf {c : Config} (h : c.wf = true) : c.fdImageWf = true := by
  simp_all [Config.wf]

/-- The image of a classic frame is the reference image, byte by byte. -/
theorem isClassicImage_classicImage {cfg : Config} (h : cfg.classicImageWf = true) (f : ClassicFrame) :
    isClassicImage cfg f (classicImage cfg f) := by
  have hoff : 5 ≤ cfg.classicDataOffset := by simp_all [Config.classicImageWf]
  refine ⟨classicImage_length cfg f h, ?_⟩
  rw [classicImage_eq_imageLayout]
  exact ⟨fun k => imageLayout_getElem?_word hoff, imageLayout_getElem?_field (k := 0) hoff (by simp),
    fun k => imageLayout_getElem?_data hoff k.isLt, fun k hk => imageLayout_getElem?_padding hoff hk⟩

/-- The image of an FD frame is the reference image, byte by byte. -/
theorem isFdImage_fdImage {cfg : Config} (h : cfg.fdImageWf = true) (f : FdFrame) :
    isFdImage cfg f (fdImage cfg f) := by
  have hoff : 6 ≤ cfg.fdDataOffset := by simp_all [Config.fdImageWf]
  refine ⟨fdImage_length cfg f h, ?_⟩
  rw [fdImage_eq_imageLayout]
  exact ⟨fun k => imageLayout_getElem?_word hoff, imageLayout_getElem?_field (k := 0) hoff (by simp),
    imageLayout_getElem?_field (k := 1) hoff (by simp), fun k => imageLayout_getElem?_data hoff k.isLt,
    fun k hk => imageLayout_getElem?_padding hoff hk⟩

/-! ## Serialising -/

/-- Settles O47: on either kind `SER` answers the frame's image, which is the reference image and has the parameter's size;
the tag check refuses an `EMPTY` slot. -/
theorem serReturnsTheImage : Obligations.SerReturnsTheImage := by
  refine fun s fs hwf => ⟨fun c hc => ?_, fun f hf => ?_, fun hempty => ?_⟩
  · have himg := Config.classicImageWf_of_wf hwf
    refine ⟨_, isClassicImage_classicImage himg c, ?_⟩
    rw [exec_ser_of_ne_empty (by simp [hc]), hc, ← classicImage_length s.cfg c himg]
    exact answers_okBytes s _
  · have himg := Config.fdImageWf_of_wf hwf
    refine ⟨_, isFdImage_fdImage himg f, ?_⟩
    rw [exec_ser_of_ne_empty (by simp [hf]), hf, ← fdImage_length s.cfg f himg]
    exact answers_okBytes s _
  · exact answers_eKind_of_empty rfl hempty

/-! ## Deserialising -/

theorem filled_dinByte_eq_imageBuffer (n off : Nat) (p : Command) :
    filled n (fun k => p.dinByte (off + k)) = imageBuffer n off p := rfl

/-- The classic frame read off `DIN` is the reference frame. -/
theorem Command.classicOfImage_eq (cfg : Config) (p : Command) :
    p.classicOfImage cfg =
      ⟨imageWordOf cfg.imageEndian p, p.dinByte 4, imageBuffer 8 cfg.classicDataOffset p⟩ := by
  rw [Command.classicOfImage, imageWord_eq, filled_dinByte_eq_imageBuffer, Command.imageLen]

/-- The FD frame read off `DIN` is the reference frame. -/
theorem Command.fdOfImage_eq (cfg : Config) (p : Command) :
    p.fdOfImage cfg =
      ⟨imageWordOf cfg.imageEndian p, p.dinByte 4, p.dinByte 5, imageBuffer 64 cfg.fdDataOffset p⟩ := by
  rw [Command.fdOfImage, imageWord_eq, filled_dinByte_eq_imageBuffer, Command.imageLen]

/-- `DESC` checks the length byte alone (45_raw_image.md R132). -/
theorem exec_desc (fd : SlotNo) (s : State) :
    exec (.desc fd) s =
      if 8 < (s.port.dinByte 4).toNat then s.fail .tooMuchData
      else s.okWrite fd (.classic (s.port.classicOfImage s.cfg)) := rfl

/-- `DESF` checks the length byte first, then bit 30 of the word (45_raw_image.md R133). -/
theorem exec_desf (fd : SlotNo) (s : State) :
    exec (.desf fd) s =
      if 64 < (s.port.dinByte 4).toNat then s.fail .tooMuchData
      else if (imageWordOf s.cfg.imageEndian s.port).getLsbD 30 then s.fail .eFormat
      else s.okWrite fd (.fd (s.port.fdOfImage s.cfg)) := by
  rw [← isRtr_eq, ← imageWord_eq]
  rfl

/-- Settles O48: on the two sides of the bound `DESC` is the write of the reference frame and the failure. -/
theorem descResult : Obligations.DescResult := by
  intro s fd
  rw [exec_desc, Command.classicOfImage_eq]
  refine ⟨fun hle => ?_, fun hlt => ?_⟩
  · rw [if_neg (Nat.not_lt.2 hle)]
    exact answers_okWrite s fd _
  · rw [if_pos hlt]
    exact answers_fail s .tooMuchData

/-- Settles O49: the length check decides before bit 30 is looked at; when both pass, `DESF` is the write of the reference
frame. -/
theorem desfResult : Obligations.DesfResult := by
  intro s fd
  rw [exec_desf, Command.fdOfImage_eq]
  refine ⟨fun hle hclear => ?_, fun hlt => ?_, fun hle hset => ?_⟩
  · rw [if_neg (Nat.not_lt.2 hle), if_neg (Bool.eq_false_iff.1 hclear)]
    exact answers_okWrite s fd _
  · rw [if_pos hlt]
    exact answers_fail s .tooMuchData
  · rw [if_neg (Nat.not_lt.2 hle), if_pos hset]
    exact answers_fail s .eFormat

end Sys2Proof.Machine
end

section
/-! SUPPORT. The statement about text rendering (46_text_rendering.md): the machine's digits are the reference digits, a
trimmed digit list is the numeral of its value, the payload text is the reference text, and `REND` answers the text of its
slot after a tag check. -/

namespace Sys2Proof.Machine

open Sys2Proof.Safety

/-! ## Digits -/

theorem hexDigit_eq_digitCode (n : BitVec 4) : hexDigit n = digitCode n.toNat := by
  revert n
  decide

/-- A decimal digit and a hexadecimal digit below ten have the same code. -/
theorem add_ofNat_eq_digitCode {d : Nat} (h : d < 10) : 0x30#8 + BitVec.ofNat 8 d = digitCode d := by
  rw [digitCode, if_pos h, BitVec.ofNat_add]

/-- No digit but zero has the code that trimming looks for. -/
theorem digitCode_eq_zeroCode_iff {d : Nat} (h : d < 16) : digitCode d = 0x30#8 ↔ d = 0 := by
  revert d
  decide

/-! ## Numerals -/

@[simp] theorem trimDigits_nil : trimDigits [] = [0x30#8] := rfl

@[simp] theorem trimDigits_zero_cons (ds : List Byte) : trimDigits (0x30#8 :: ds) = trimDigits ds := by
  simp [trimDigits]

theorem trimDigits_cons_of_ne {d : Byte} (h : d ≠ 0x30#8) (ds : List Byte) : trimDigits (d :: ds) = d :: ds := by
  simp [trimDigits, h]

/-- Digits written in order and trimmed are the numeral of their value (00_scope.md R3): leading zeros add nothing to the
value, and the first digit that is not zero ends the trimming. -/
theorem isNumeral_trimDigits {base : Nat} (hpos : 0 < base) (hle : base ≤ 16) {ds : List Nat}
    (hds : ∀ d ∈ ds, d < base) :
    isNumeral base (ds.foldl (fun acc d => acc * base + d) 0) (trimDigits (ds.map digitCode)) := by
  induction ds with
  | nil => exact ⟨[0], by simp, by simpa using hpos, by simp, fun _ => rfl, rfl⟩
  | cons d ds ih =>
    obtain ⟨hd, htail⟩ := List.forall_mem_cons.1 hds
    by_cases h0 : d = 0
    · subst h0
      simpa [digitCode] using ih htail
    · have hcode : digitCode d ≠ 0x30#8 := fun h => h0 ((digitCode_eq_zeroCode_iff (by omega)).1 h)
      refine ⟨d :: ds, by simp, hds, rfl, by simp [h0], ?_⟩
      rw [List.map_cons, trimDigits_cons_of_ne hcode]

/-- The hexadecimal digits of a word as numbers, the most significant first. -/
def wordDigits (w : Word) : List Nat := [28, 24, 20, 16, 12, 8, 4, 0].map fun k => w.toNat / 2 ^ k % 16

theorem hexDigits8_eq_map_digitCode (w : Word) : hexDigits8 w = (wordDigits w).map digitCode := by
  simp [hexDigits8, wordDigits, hexDigit_eq_digitCode, BitVec.extractLsb'_toNat, Nat.shiftRight_eq_div_pow]

theorem wordDigits_value (w : Word) : (wordDigits w).foldl (fun acc d => acc * 16 + d) 0 = w.toNat := by
  have := w.isLt
  simp only [wordDigits, List.map_cons, List.map_nil, List.foldl_cons, List.foldl_nil]
  omega

theorem isNumeral_hexU (w : Word) : isNumeral 16 w.toNat (hexU w) := by
  have hlt : ∀ d ∈ wordDigits w, d < 16 := List.forall_mem_map.2 fun k _ => Nat.mod_lt _ (by decide)
  have h := isNumeral_trimDigits (by decide) (by decide) hlt
  rwa [wordDigits_value, ← hexDigits8_eq_map_digitCode] at h

/-- The decimal digits of a byte as numbers, the hundreds first. -/
def byteDigits (b : Byte) : List Nat := [b.toNat / 100, b.toNat / 10 % 10, b.toNat % 10]

theorem byteDigits_lt (b : Byte) : ∀ d ∈ byteDigits b, d < 10 := by
  have := b.isLt
  simp only [byteDigits, List.forall_mem_cons]
  exact ⟨by omega, by omega, by omega, by simp⟩

theorem byteDigits_value (b : Byte) : (byteDigits b).foldl (fun acc d => acc * 10 + d) 0 = b.toNat := by
  simp only [byteDigits, List.foldl_cons, List.foldl_nil]
  omega

theorem decByte_eq_trimDigits (b : Byte) : decByte b = trimDigits ((byteDigits b).map digitCode) :=
  congrArg trimDigits (List.map_congr_left fun d hd => add_ofNat_eq_digitCode (byteDigits_lt b d hd))

theorem isNumeral_decByte (b : Byte) : isNumeral 10 b.toNat (decByte b) := by
  have h := isNumeral_trimDigits (by decide) (by decide) (byteDigits_lt b)
  rwa [byteDigits_value, ← decByte_eq_trimDigits] at h

/-! ## The payload part -/

theorem hex2U_eq (b : Byte) : hex2U b = [digitCode (b.toNat / 16), digitCode (b.toNat % 16)] := by
  have hhigh : b.toNat / 16 % 16 = b.toNat / 16 := by omega
  simp [hex2U, hexDigit_eq_digitCode, BitVec.extractLsb'_toNat, Nat.shiftRight_eq_div_pow, hhigh]

theorem sepBytes_eq_separator (sep : RenderSep) : sepBytes sep = separator sep := by cases sep <;> rfl

/-- Joining the digits of the bytes puts a separator exactly between two bytes. -/
theorem payloadText_eq_textOfPayload (sep : RenderSep) (bytes : List Byte) :
    payloadText sep bytes = textOfPayload (separator sep) bytes := by
  rw [payloadText, sepBytes_eq_separator]
  induction bytes with
  | nil => rfl
  | cons b bytes ih =>
    cases bytes with
    | nil => rw [textOfPayload, ← hex2U_eq, List.map_singleton, List.intercalate_singleton]
    | cons c rest =>
      rw [textOfPayload, ← ih, ← hex2U_eq, List.map_cons, List.map_cons, List.intercalate_cons_cons]

/-! ## The command -/

theorem exec_rend_of_ne_empty {s : State} {fs : SlotNo} (h : s.slot fs ≠ .empty) :
    exec (.rend fs) s = s.okBytes ((s.slot fs).text s.cfg.renderSep) := by
  simp only [exec, execRend]
  exact withFrame_of_ne_empty h _

theorem Slot.text_classic (sep : RenderSep) (c : ClassicFrame) :
    (Slot.classic c).text sep =
      hexU c.idw ++ [0x23#8] ++ textOfPayload (separator sep) (c.data.toList.take c.len.toNat) := by
  rw [← payloadText_eq_textOfPayload]
  rfl

theorem Slot.text_fd (sep : RenderSep) (f : FdFrame) :
    (Slot.fd f).text sep =
      hexU f.idw ++ [0x23#8, 0x23#8] ++ decByte f.flags ++ [0x20#8] ++
        textOfPayload (separator sep) (f.data.toList.take f.len.toNat) := by
  rw [← payloadText_eq_textOfPayload]
  rfl

/-- Settles O51: on either kind `REND` answers the slot's text, whose numerals and payload part are the reference ones; the
tag check refuses an `EMPTY` slot. -/
theorem rendReturnsTheText : Obligations.RendReturnsTheText := by
  refine fun s fs => ⟨fun c hc _ => ?_, fun f hf _ => ?_, fun hempty => ?_⟩
  · refine ⟨hexU c.idw, _, isNumeral_hexU c.idw, rfl, ?_⟩
    rw [exec_rend_of_ne_empty (by simp [hc]), hc, Slot.text_classic]
    exact answers_okBytes s _
  · refine ⟨hexU f.idw, decByte f.flags, _, isNumeral_hexU f.idw, isNumeral_decByte f.flags, rfl, ?_⟩
    rw [exec_rend_of_ne_empty (by simp [hf]), hf, Slot.text_fd]
    exact answers_okBytes s _
  · exact answers_eKind_of_empty rfl hempty

end Sys2Proof.Machine
end

section
/-! SUPPORT. The statement about the system commands (47_system.md): the bits of the `STATUS` register, its fields in the
word that `RDST` reads out, and the next state of each of the three commands. -/

namespace Sys2Proof.Machine

/-! ## The `STATUS` register (10_state.md R15) -/

/-- Bits 3:0 are `LAST`, bit 4 is `STICKY`, and nothing is stored above. -/
theorem Status.word_getLsbD (st : Status) (k : Nat) :
    st.word.getLsbD k = if k < 4 then st.last.code.getLsbD k else decide (k = 4) && st.sticky := by
  rw [word, BitVec.getLsbD_append (x := 0#3 ++ BitVec.ofBool st.sticky) (y := st.last.code),
    BitVec.getLsbD_append (x := 0#3) (y := BitVec.ofBool st.sticky)]
  split
  · rfl
  · have hbit : k - 4 = 0 ↔ k = 4 := by omega
    simp [BitVec.getLsbD_ofBool, hbit]

/-- Zero extension adds no bit. -/
theorem Status.setWidth_word_getLsbD (st : Status) (k : Nat) :
    (st.word.setWidth 32).getLsbD k = st.word.getLsbD k := by
  rw [BitVec.getLsbD_setWidth, Bool.and_eq_right_iff_imp]
  exact fun hset => decide_eq_true ((BitVec.lt_of_getLsbD hset).trans (by decide))

theorem Status.setWidth_word_last (st : Status) : (st.word.setWidth 32).extractLsb' 0 4 = st.last.code :=
  BitVec.eq_of_getLsbD_eq fun k hk => by
    rw [BitVec.getLsbD_extractLsb', Nat.zero_add, setWidth_word_getLsbD, word_getLsbD, if_pos hk]
    simp [hk]

theorem Status.setWidth_word_sticky (st : Status) : (st.word.setWidth 32).getLsbD 4 = st.sticky := by
  rw [setWidth_word_getLsbD, word_getLsbD]
  rfl

theorem Status.setWidth_word_high (st : Status) : (st.word.setWidth 32).extractLsb' 5 27 = 0 :=
  BitVec.eq_of_getLsbD_eq fun k hk => by
    rw [BitVec.getLsbD_extractLsb', setWidth_word_getLsbD, word_getLsbD, if_neg (by omega)]
    have hbit : 5 + k ≠ 4 := by omega
    simp [hbit]

/-! ## The commands -/

/-- `NOP` only responds (47_system.md R151). -/
theorem exec_nop (s : State) : exec .nop s = .next (s.respond .ok 0 []) := rfl

/-- `RDST` only responds, with the register zero-extended (47_system.md R152). -/
theorem exec_rdst (s : State) : exec .rdst s = .next (s.respond .ok (s.status.word.setWidth 32) []) := rfl

/-- `CLRST` clears `STATUS` and responds (47_system.md R153). -/
theorem exec_clrst (s : State) : exec .clrst s = .next ({ s with status := Status.clear }.respond .ok 0 []) := rfl

/-- Settles O22: each command only responds, `CLRST` after clearing `STATUS`; the value of `RDST` is the register
zero-extended, read field by field. -/
theorem systemCommands : Obligations.SystemCommands := fun s =>
  ⟨exec_nop s,
    ⟨s.status.word.setWidth 32, exec_rdst s, s.status.setWidth_word_last, s.status.setWidth_word_sticky,
      s.status.setWidth_word_high⟩,
    exec_clrst s⟩

end Sys2Proof.Machine
end

section
/-! SUPPORT. The statements about the encoding (30_encoding.md sections 3 and 4): an encoded command reads back, and a word
is its row's pattern together with the bits the row's format leaves to the fields, which are the fields put back. -/

namespace Sys2Proof

open Sys2Proof.Safety

/-! ## Decoding an encoded command -/

/-- The word of a command finds its row again and its fields read back, for every slot number and flag: a finite check
per command. -/
theorem decode_encode (i : Instr) : decode (encode i) = .ok i := by
  cases i with
  | nop | rdst | clrst | idraw | idsem | idflg => decide
  | idpack err rtr ext => revert err rtr ext; decide
  | cnew fd err rtr ext => revert fd err rtr ext; decide
  | fnew fd esi brs err ext => revert fd esi brs err ext; decide
  | crtr fd | frtr fd | fclr fd | desc fd | desf fd => revert fd; decide
  | fsbrs fs on | fsesi fs on => revert fs on; decide
  | fgbrs fs | fgesi fs | fgflg fs | gidw fs | graw fs | gsid fs | glen fs | gerrw fs | giserr fs | gisext fs | gisrtr fs
  | gdata fs | gkind fs | decerr fs | ser fs | rend fs => revert fs; decide
  | widen fd fs | narrow fd fs | fmov fd fs => revert fd fs; decide
  | feq fs ft => revert fs ft; decide

/-- Settles O10: every command is well formed, and its word decodes to it. -/
theorem decodeAfterEncode : Obligations.DecodeAfterEncode := fun i _ => decode_encode i

/-! ## Encoding a decoded word -/

/-- A field of a word put back where it stood is the word under the field's mask. -/
theorem setWidth_extractLsb'_shiftLeft (w : Word) (pos len : Nat) :
    (w.extractLsb' pos len).setWidth 32 <<< pos = w &&& (BitVec.allOnes len).setWidth 32 <<< pos := by
  apply BitVec.eq_of_getLsbD_eq
  intro k hk
  by_cases hlo : k < pos
  · simp [hlo]
  · have hpos : pos + (k - pos) = k := by omega
    simp [hk, hlo, hpos, Bool.and_comm]

theorem putSlot_toFin (x : BitVec 2) (pos : Nat) : putSlot x.toFin pos = x.setWidth 32 <<< pos := by
  simp [putSlot]

theorem putFlag_getLsbD (w : Word) (pos : Nat) :
    putFlag (w.getLsbD pos) pos = (w.extractLsb' pos 1).setWidth 32 <<< pos := by
  have hbit : BitVec.ofBool (w.getLsbD pos) = w.extractLsb' pos 1 := by
    ext k hk
    obtain rfl : k = 0 := by omega
    simp
  rw [putFlag, hbit]

/-- The live fields of a format, read from a word and put back where they stood (30_encoding.md R54, R55). -/
def Format.putFields (w : Word) : Format → Word
  | .z => 0
  | .p => putFlag (errField w) 2 ||| putFlag (rtrField w) 1 ||| putFlag (extField w) 0
  | .kc => putSlot (fdField w) 22 ||| putFlag (errField w) 2 ||| putFlag (rtrField w) 1 ||| putFlag (extField w) 0
  | .kf =>
    putSlot (fdField w) 22 ||| putFlag (esiField w) 4 ||| putFlag (brsField w) 3 ||| putFlag (errField w) 2 |||
      putFlag (extField w) 0
  | .l => putSlot (fdField w) 22
  | .s => putSlot (fsField w) 20
  | .m => putSlot (fsField w) 20 ||| putFlag (extField w) 0
  | .d => putSlot (fdField w) 22 ||| putSlot (fsField w) 20
  | .t => putSlot (fsField w) 20 ||| putSlot (ftField w) 18

/-- The fields of a format are exactly the bits its mask leaves out. -/
theorem Format.putFields_eq (f : Format) (w : Word) : f.putFields w = w &&& ~~~f.mask := by
  cases f with
  | z => simp [putFields, mask]
  | p | kc | kf | l | s | m | d | t =>
    simp only [putFields, fdField, fsField, ftField, esiField, brsField, errField, rtrField, extField, putSlot_toFin,
      putFlag_getLsbD, setWidth_extractLsb'_shiftLeft, ← BitVec.and_or_distrib_left]
    rfl

/-- The Encoding line of each command puts the row's pattern and the fields of the row's format together. -/
theorem encode_build : ∀ r ∈ opRows, ∀ w, encode (r.build w) = r.pattern ||| r.format.putFields w := by
  simp only [opRows, opRowsLow, opRowsHigh, List.cons_append, List.nil_append, List.forall_mem_cons, List.not_mem_nil,
    false_imp_iff, implies_true, and_true]
  and_intros
  all_goals
    intro w
    simp only [encode, OpRow.pattern, Format.putFields, BitVec.or_assoc]
    rfl

/-- Nothing of a word that matches a row is lost between the row's pattern and its fields. -/
theorem OpRow.Matches.encode_build_eq {r : OpRow} {w : Word} (h : r.Matches w) (hr : r ∈ opRows) :
    encode (r.build w) = w := by
  calc encode (r.build w)
    _ = r.pattern ||| r.format.putFields w := encode_build r hr w
    _ = w &&& r.format.mask ||| w &&& ~~~r.format.mask := by rw [← h, Format.putFields_eq]
    _ = w := by rw [← BitVec.and_or_distrib_left, BitVec.or_not_self, BitVec.and_allOnes]

/-- Settles O11: a decoded word matches the row whose command it decodes to. -/
theorem encodeAfterDecode : Obligations.EncodeAfterDecode := by
  intro w i hi
  obtain ⟨r, hr, hmatch, rfl⟩ := decode_eq_ok_iff.1 hi
  exact hmatch.encode_build_eq hr

/-! ## The words the decoder accepts -/

/-- Settles O12: the reference table holds the rows the decoder looks up. -/
theorem decoderAcceptsExactlyTheTable : Obligations.DecoderAcceptsExactlyTheTable := exists_decode_eq_ok_iff

/-- Settles O13: each of the nine words is the encoded word of its command. -/
theorem decodeOfSpecWords : Obligations.DecodeOfSpecWords :=
  ⟨decode_encode .clrst, decode_encode (.idpack true false false), decode_encode (.cnew 1 false false false),
    decode_encode (.fnew 0 false true false false), decode_encode (.gidw 1), decode_encode (.widen 2 1),
    decode_encode (.feq 1 3), decode_encode (.desf 2), decode_encode (.rend 1)⟩

end Sys2Proof
end

section
/-! SUPPORT. The laws of the identifier codec (40_identifier_codec.md, 30_encoding.md section 1): the fields of the reference
word read back, and a word whose fields are packed again is itself exactly when it is packed. -/

namespace Sys2Proof.Machine

open Sys2Proof.Safety

/-! ## The fields of a packed word -/

theorem getLsbD_eq_decide (w : Word) (k : Nat) : w.getLsbD k = decide (w.toNat / 2 ^ k % 2 = 1) :=
  Nat.testBit_eq_decide_div_mod_eq

section IdWord

variable {id : Word} (e r x : Bool) (h : id.toNat ≤ 0x1FFFFFFF)
include h

/-- The bit weights of the reference word do not overflow. -/
theorem idWord_toNat :
    (idWord id e r x).toNat = id.toNat + x.toNat * 2 ^ 29 + r.toNat * 2 ^ 30 +
      (e || decide (0x7FF < id.toNat)).toNat * 2 ^ 31 := by
  have hx := x.toNat_le
  have hr := r.toNat_le
  have he := (e || decide (0x7FF < id.toNat)).toNat_le
  rw [idWord, BitVec.toNat_ofNat]
  omega

theorem rawWord_idWord : rawWord (idWord id e r x) = id := by
  apply BitVec.eq_of_toNat_eq
  rw [rawWord, BitVec.toNat_ofNat, idWord_toNat e r x h]
  omega

theorem idWord_getLsbD_29 : (idWord id e r x).getLsbD 29 = x := by
  rw [getLsbD_eq_decide, idWord_toNat e r x h]
  cases x <;> simp <;> omega

theorem idWord_getLsbD_30 : (idWord id e r x).getLsbD 30 = r := by
  have hx := x.toNat_le
  rw [getLsbD_eq_decide, idWord_toNat e r x h]
  cases r <;> simp <;> omega

theorem idWord_getLsbD_31 : (idWord id e r x).getLsbD 31 = (e || decide (0x7FF < id.toNat)) := by
  have hx := x.toNat_le
  have hr := r.toNat_le
  rw [getLsbD_eq_decide, idWord_toNat e r x h]
  cases (e || decide (0x7FF < id.toNat)) <;> simp <;> omega

/-- A standard word holds its id in the low 11 bits. -/
theorem semId_idWord :
    semId (idWord id e r x) =
      if e || decide (0x7FF < id.toNat) then .extended (id.setWidth 29) else .standard (id.setWidth 11) := by
  have hraw : idWord id e r x &&& effMask = id := by
    rw [and_lowMask _ effMask 29 rfl, ← rawWord, rawWord_idWord e r x h]
  rw [semId, isExt_eq, idWord_getLsbD_31 e r x h, hraw]
  cases hext : (e || decide (0x7FF < id.toNat)) with
  | true => simp only [if_true]
  | false =>
    have hlow : (idWord id e r x &&& sffMask).setWidth 11 = id.setWidth 11 := by
      apply BitVec.eq_of_toNat_eq
      rw [and_lowMask _ sffMask 11 rfl, BitVec.toNat_setWidth, BitVec.toNat_setWidth, BitVec.toNat_ofNat,
        idWord_toNat e r x h]
      omega
    simp only [hlow, Bool.false_eq_true, if_false]

end IdWord

/-- The extended flag that the size of the id forces may as well be asked for. -/
theorem idWord_ext_or (id : Word) (e r x : Bool) :
    idWord id (e || decide (0x7FF < id.toNat)) r x = idWord id e r x := by
  simp only [idWord, Bool.or_assoc, Bool.or_self]

/-- Settles O25: `pack_id` is the reference word, whose fields read back; packing them again gives the same word because the
extended flag read back is the one it forced. -/
theorem codecLaws : Obligations.CodecLaws := by
  refine fun id e r x => ⟨fun h => ⟨idWord id e r x, packId_of_le e r x h, ?_⟩, packId_of_lt e r x⟩
  rw [rawId_eq, isExt_eq, isRtr_eq, isErr_eq, rawWord_idWord e r x h, idWord_getLsbD_31 e r x h,
    idWord_getLsbD_30 e r x h, idWord_getLsbD_29 e r x h, packId_of_le _ r x h, idWord_ext_or]
  exact ⟨rfl, rfl, rfl, rfl, semId_idWord e r x h, rfl⟩

/-! ## Packed words -/

theorem packId_eq_some_iff (id w : Word) (e r x : Bool) :
    packId id e r x = some w ↔ id.toNat ≤ 0x1FFFFFFF ∧ idWord id e r x = w := by
  rcases Nat.lt_or_ge 0x1FFFFFFF id.toNat with h | h
  · simp [packId_of_lt e r x h, h]
  · simp [packId_of_le e r x h, h]

/-- Bits 11 to 28 as part of a number. -/
theorem packedWord_iff (w : Word) : packedWord w ↔ (w.getLsbD 31 = false → w.toNat / 2 ^ 11 % 2 ^ 18 = 0) := by
  simp [packedWord, ← BitVec.toNat_inj, BitVec.extractLsb'_toNat, Nat.shiftRight_eq_div_pow]

/-- A word that `pack_id` makes is packed: without the extended flag its id has 11 bits. -/
theorem packedWord_of_packId {id w : Word} {e r x : Bool} (hw : packId id e r x = some w) : packedWord w := by
  obtain ⟨h, rfl⟩ := (packId_eq_some_iff id w e r x).1 hw
  rw [packedWord_iff, idWord_getLsbD_31 e r x h, idWord_toNat e r x h]
  intro hext
  have hid : id.toNat ≤ 0x7FF := by simp_all
  have hx := x.toNat_le
  have hr := r.toNat_le
  rw [hext]
  simp only [Bool.toNat_false]
  omega

/-- A packed word is made of its own fields. -/
theorem idWord_of_packedWord {w : Word} (h : packedWord w) :
    idWord (rawWord w) (w.getLsbD 31) (w.getLsbD 30) (w.getLsbD 29) = w := by
  have hraw : (rawWord w).toNat = w.toNat % 2 ^ 29 := by
    rw [rawWord, BitVec.toNat_ofNat]
    omega
  have hbit : ∀ k, (w.getLsbD k).toNat = w.toNat / 2 ^ k % 2 := fun k => by
    rw [getLsbD_eq_decide]
    rcases Nat.mod_two_eq_zero_or_one (w.toNat / 2 ^ k) with hk | hk <;> simp [hk]
  have hext : (w.getLsbD 31 || decide (0x7FF < (rawWord w).toNat)) = w.getLsbD 31 := by
    rw [packedWord_iff] at h
    cases hw : w.getLsbD 31 with
    | true => rfl
    | false =>
      have hzero := h hw
      rw [hraw, Bool.false_or, decide_eq_false]
      omega
  apply BitVec.eq_of_toNat_eq
  rw [idWord_toNat _ _ _ (by omega), hext, hraw, hbit, hbit, hbit]
  have := w.isLt
  omega

/-- Settles O26: a packed word is `pack_id` of its own fields. -/
theorem packableWords : Obligations.PackableWords := by
  refine fun w => ⟨fun ⟨id, e, r, x, hw⟩ => packedWord_of_packId hw, fun h => ?_⟩
  refine ⟨rawWord w, w.getLsbD 31, w.getLsbD 30, w.getLsbD 29, ?_⟩
  refine (packId_eq_some_iff _ _ _ _ _).2 ⟨?_, idWord_of_packedWord h⟩
  rw [rawWord, BitVec.toNat_ofNat]
  omega

end Sys2Proof.Machine
end

section
/-! SUPPORT. The laws of the text rendering (46_text_rendering.md): a numeral has the length of `digitCount` and determines
its number, a payload text determines its bytes, and `#` stands nowhere but between the parts, so a text splits into them
again. -/

namespace Sys2Proof.Machine

open Sys2Proof.Safety

/-! ## Digits read back -/

/-- The number a hexadecimal digit stands for. -/
def digitValue (c : Byte) : Nat := if c.toNat < 0x3A then c.toNat - 0x30 else c.toNat - 0x37

theorem digitValue_digitCode {d : Nat} (h : d < 16) : digitValue (digitCode d) = d := by
  revert d
  decide

/-- The codes of the digits are neither `#` nor the space. -/
theorem digitCode_ne {d : Nat} (h : d < 16) : digitCode d ≠ 0x23#8 ∧ digitCode d ≠ 0x20#8 := by
  revert d
  decide

/-! ## Numerals -/

/-- The value of digits written in order is that of the digits from the least significant one on. -/
theorem foldl_eq_ofDigits_reverse (base : Nat) (ds : List Nat) :
    ds.foldl (fun acc d => acc * base + d) 0 = Nat.ofDigits base ds.reverse := by
  simp [Nat.ofDigits_eq_foldr, Nat.mul_comm, Nat.add_comm]

section Numeral

variable {base n : Nat} {text : List Byte} (h : isNumeral base n text)
include h

theorem isNumeral_length (hbase : 1 < base) : text.length = digitCount base n := by
  obtain ⟨ds, hne, hlt, hval, hzero, rfl⟩ := h
  rw [List.length_map, digitCount]
  cases ds with
  | nil => exact absurd rfl hne
  | cons d ds =>
    by_cases hd : d = 0
    · obtain ⟨-, rfl⟩ : d = 0 ∧ ds = [] := by simpa [hd] using hzero (by simp [hd])
      simp [← hval, hd]
    · have hdigits : base.digits n = (d :: ds).reverse := by
        rw [← hval, foldl_eq_ofDigits_reverse]
        exact Nat.digits_ofDigits base hbase _ (fun l hl => hlt l (List.mem_reverse.1 hl)) (by simpa using hd)
      simp [hdigits]

/-- A numeral determines its number. -/
theorem isNumeral_value (hle : base ≤ 16) :
    (text.map digitValue).foldl (fun acc d => acc * base + d) 0 = n := by
  obtain ⟨ds, -, hlt, hval, -, rfl⟩ := h
  have hds : (ds.map digitCode).map digitValue = ds.map id := by
    rw [List.map_map]
    exact List.map_congr_left fun d hd => digitValue_digitCode ((hlt d hd).trans_le hle)
  rw [hds, List.map_id, hval]

theorem isNumeral_ne (hle : base ≤ 16) {c : Byte} (hc : c ∈ text) : c ≠ 0x23#8 ∧ c ≠ 0x20#8 := by
  obtain ⟨ds, -, hlt, -, -, rfl⟩ := h
  obtain ⟨d, hd, rfl⟩ := List.mem_map.1 hc
  exact digitCode_ne ((hlt d hd).trans_le hle)

end Numeral

/-- A number below a power of the base has at most that many digits. -/
theorem digitCount_le {base n k : Nat} (hbase : 1 < base) (hk : 1 ≤ k) (hn : n < base ^ k) : digitCount base n ≤ k :=
  max_le hk ((Nat.digits_length_le_iff hbase n).2 hn)

theorem one_le_digitCount (base n : Nat) : 1 ≤ digitCount base n := le_max_left _ _

theorem hexU_length (w : Word) : (hexU w).length = digitCount 16 w.toNat :=
  isNumeral_length (isNumeral_hexU w) (by decide)

theorem decByte_length (b : Byte) : (decByte b).length = digitCount 10 b.toNat :=
  isNumeral_length (isNumeral_decByte b) (by decide)

theorem hexU_injective : Function.Injective hexU := fun v w h =>
  BitVec.eq_of_toNat_eq <| by
    rw [← isNumeral_value (isNumeral_hexU v) (by decide), h, isNumeral_value (isNumeral_hexU w) (by decide)]

theorem decByte_injective : Function.Injective decByte := fun b c h =>
  BitVec.eq_of_toNat_eq <| by
    rw [← isNumeral_value (isNumeral_decByte b) (by decide), h, isNumeral_value (isNumeral_decByte c) (by decide)]

theorem hash_notMem_hexU (w : Word) : 0x23#8 ∉ hexU w := fun h =>
  (isNumeral_ne (isNumeral_hexU w) (by decide) h).1 rfl

theorem hash_notMem_decByte (b : Byte) : 0x23#8 ∉ decByte b := fun h =>
  (isNumeral_ne (isNumeral_decByte b) (by decide) h).1 rfl

theorem space_notMem_decByte (b : Byte) : 0x20#8 ∉ decByte b := fun h =>
  (isNumeral_ne (isNumeral_decByte b) (by decide) h).2 rfl

/-! ## The payload part -/

theorem hex2U_injective : Function.Injective hex2U := fun b c h => by
  rw [hex2U_eq, hex2U_eq] at h
  obtain ⟨hhigh, hlow⟩ : digitCode (b.toNat / 16) = digitCode (c.toNat / 16) ∧
      digitCode (b.toNat % 16) = digitCode (c.toNat % 16) := by simpa using h
  have hhigh := congrArg digitValue hhigh
  have hlow := congrArg digitValue hlow
  rw [digitValue_digitCode (by omega), digitValue_digitCode (by omega)] at hhigh hlow
  exact BitVec.eq_of_toNat_eq (by omega)

theorem hash_notMem_hex2U (b : Byte) : 0x23#8 ∉ hex2U b := by
  rw [hex2U_eq]
  simpa using ⟨(digitCode_ne (by omega)).1.symm, (digitCode_ne (by omega)).1.symm⟩

theorem textOfPayload_singleton (sep : List Byte) (b : Byte) : textOfPayload sep [b] = hex2U b := (hex2U_eq b).symm

theorem textOfPayload_cons_cons (sep : List Byte) (b c : Byte) (bs : List Byte) :
    textOfPayload sep (b :: c :: bs) = hex2U b ++ sep ++ textOfPayload sep (c :: bs) := by
  rw [textOfPayload, hex2U_eq]

@[simp] theorem hex2U_length (b : Byte) : (hex2U b).length = 2 := rfl

theorem textOfPayload_length (sep : List Byte) (bs : List Byte) :
    (textOfPayload sep bs).length = 2 * bs.length + sep.length * (bs.length - 1) := by
  induction bs with
  | nil => rfl
  | cons b bs ih =>
    cases bs with
    | nil => simp [textOfPayload_singleton]
    | cons c bs =>
      simp only [textOfPayload_cons_cons, List.length_append, ih, hex2U_length, List.length_cons, Nat.add_sub_cancel,
        Nat.mul_succ]
      omega

theorem hash_notMem_textOfPayload (sep : RenderSep) (bs : List Byte) :
    0x23#8 ∉ textOfPayload (separator sep) bs := by
  have hsep : 0x23#8 ∉ separator sep := by cases sep <;> decide
  induction bs with
  | nil => exact List.not_mem_nil
  | cons b bs ih =>
    cases bs with
    | nil => exact textOfPayload_singleton _ b ▸ hash_notMem_hex2U b
    | cons c bs => simp [textOfPayload_cons_cons, hash_notMem_hex2U, hsep, ih]

/-- Payload texts of the same length have equally many bytes in them. -/
theorem length_eq_of_textOfPayload_eq {sep bs cs : List Byte} (h : textOfPayload sep bs = textOfPayload sep cs) :
    bs.length = cs.length := by
  have hlen := congrArg List.length h
  rw [textOfPayload_length, textOfPayload_length] at hlen
  rcases Nat.lt_trichotomy bs.length cs.length with hlt | heq | hlt
  · have := Nat.mul_le_mul_left sep.length (Nat.sub_le_sub_right hlt.le 1)
    omega
  · exact heq
  · have := Nat.mul_le_mul_left sep.length (Nat.sub_le_sub_right hlt.le 1)
    omega

/-- A payload text determines its bytes, with a separator or without. -/
theorem textOfPayload_injective (sep : List Byte) : Function.Injective (textOfPayload sep) := by
  intro bs cs h
  have hlen := length_eq_of_textOfPayload_eq h
  induction bs generalizing cs with
  | nil => exact (List.length_eq_zero_iff.1 hlen.symm).symm
  | cons b bs ih =>
    match cs, bs, hlen with
    | [c], [], _ =>
      rw [textOfPayload_singleton, textOfPayload_singleton] at h
      rw [hex2U_injective h]
    | c :: c' :: cs, b' :: bs, hlen =>
      rw [textOfPayload_cons_cons, textOfPayload_cons_cons, List.append_assoc, List.append_assoc] at h
      obtain ⟨hb, htail⟩ := List.append_inj h rfl
      rw [hex2U_injective hb, ih (List.append_cancel_left htail) (Nat.succ.inj hlen)]

/-- The meaningful bytes of two buffers are the same list exactly when there are equally many and each is the same. -/
theorem take_toList_eq_iff {n l m : Nat} (a b : Vector Byte n) (hl : l ≤ n) (hm : m ≤ n) :
    a.toList.take l = b.toList.take m ↔ l = m ∧ ∀ k, k < l → a[k]? = b[k]? := by
  constructor
  · intro h
    have hlen : l = m := by simpa [hl, hm] using congrArg List.length h
    refine ⟨hlen, fun k hk => ?_⟩
    simpa [List.getElem?_take, hk, ← hlen] using congrArg (·[k]?) h
  · rintro ⟨rfl, h⟩
    refine List.ext_getElem? fun k => ?_
    by_cases hk : k < l
    · simpa [List.getElem?_take, hk] using h k hk
    · simp [hk]

/-! ## A text and its parts -/

/-- Two texts that meet a code first at the end of their first parts have the same parts. -/
theorem append_cons_eq_iff_of_notMem {c : Byte} {as bs xs ys : List Byte} (ha : c ∉ as) (hb : c ∉ bs) :
    as ++ c :: xs = bs ++ c :: ys ↔ as = bs ∧ xs = ys := by
  induction as generalizing bs with
  | nil => cases bs <;> simp_all
  | cons a as ih =>
    cases bs with
    | nil => simp_all [eq_comm]
    | cons b bs =>
      rw [List.mem_cons, not_or] at ha hb
      simp [ih ha.2 hb.2, and_assoc]

theorem text_classic_eq_iff (sep : RenderSep) (a b : ClassicFrame) :
    (Slot.classic a).text sep = (Slot.classic b).text sep ↔
      a.idw = b.idw ∧ a.data.toList.take a.len.toNat = b.data.toList.take b.len.toNat := by
  simp only [Slot.text_classic, List.append_assoc, List.singleton_append,
    append_cons_eq_iff_of_notMem (hash_notMem_hexU a.idw) (hash_notMem_hexU b.idw), hexU_injective.eq_iff,
    (textOfPayload_injective (separator sep)).eq_iff]

theorem text_fd_eq_iff (sep : RenderSep) (a b : FdFrame) :
    (Slot.fd a).text sep = (Slot.fd b).text sep ↔
      a.idw = b.idw ∧ a.flags = b.flags ∧ a.data.toList.take a.len.toNat = b.data.toList.take b.len.toNat := by
  simp only [Slot.text_fd, List.append_assoc, List.cons_append, List.nil_append,
    append_cons_eq_iff_of_notMem (hash_notMem_hexU a.idw) (hash_notMem_hexU b.idw), hexU_injective.eq_iff,
    List.cons_inj_right,
    append_cons_eq_iff_of_notMem (space_notMem_decByte a.flags) (space_notMem_decByte b.flags),
    decByte_injective.eq_iff, (textOfPayload_injective (separator sep)).eq_iff]

/-- The two hashes of an FD text stand side by side behind the word. -/
theorem exists_text_fd_eq (sep : RenderSep) (f : FdFrame) :
    ∃ a b, (Slot.fd f).text sep = a ++ [0x23#8, 0x23#8] ++ b :=
  ⟨hexU f.idw, decByte f.flags ++ ([0x20#8] ++ textOfPayload (separator sep) (f.data.toList.take f.len.toNat)), by
    simp only [Slot.text_fd, List.append_assoc]⟩

theorem slotWf_classic_iff (c : ClassicFrame) : slotWf (.classic c) = true ↔ c.len.toNat ≤ 8 := by simp [slotWf]

theorem slotWf_fd_iff (f : FdFrame) : slotWf (.fd f) = true ↔ f.len.toNat ≤ 64 ∧ f.idw.getLsbD 30 = false := by
  simp [slotWf]

/-- Settles O53: the hashes are the ones between the parts; equal texts have equal parts, and those are what semantic
equality compares. -/
theorem textDeterminesTheFrame : Obligations.TextDeterminesTheFrame := by
  refine fun sep => ⟨fun c => ?_, fun f => ⟨?_, exists_text_fd_eq sep f⟩, fun a b ha hb => ?_, fun a b ha hb => ?_⟩
  · simp [Slot.text_classic, List.count_eq_zero.2 (hash_notMem_hexU _),
      List.count_eq_zero.2 (hash_notMem_textOfPayload sep _)]
  · simp [Slot.text_fd, List.count_eq_zero.2 (hash_notMem_hexU _), List.count_eq_zero.2 (hash_notMem_decByte _),
      List.count_eq_zero.2 (hash_notMem_textOfPayload sep _)]
  · rw [text_classic_eq_iff, take_toList_eq_iff _ _ ((slotWf_classic_iff a).1 ha) ((slotWf_classic_iff b).1 hb),
      BitVec.toNat_inj, SemEq]
  · rw [text_fd_eq_iff, take_toList_eq_iff _ _ ((slotWf_fd_iff a).1 ha).1 ((slotWf_fd_iff b).1 hb).1,
      BitVec.toNat_inj, SemEq]
    tauto

/-! ## The length of a text -/

theorem payload_take_length {n : Nat} (data : Vector Byte n) {len : Nat} (h : len ≤ n) :
    (data.toList.take len).length = len := by
  rw [List.length_take, Vector.length_toList, min_eq_left h]

theorem separator_length (sep : RenderSep) :
    (separator sep).length = match sep with | .space => 1 | .none => 0 := by cases sep <;> rfl

theorem text_classic_length (sep : RenderSep) {c : ClassicFrame} (h : c.len.toNat ≤ 8) :
    ((Slot.classic c).text sep).length =
      digitCount 16 c.idw.toNat + 1 + 2 * c.len.toNat + (separator sep).length * (c.len.toNat - 1) := by
  simp only [Slot.text_classic, List.length_append, List.length_singleton, hexU_length, textOfPayload_length,
    payload_take_length c.data h]
  omega

theorem text_fd_length (sep : RenderSep) {f : FdFrame} (h : f.len.toNat ≤ 64) :
    ((Slot.fd f).text sep).length =
      digitCount 16 f.idw.toNat + 2 + digitCount 10 f.flags.toNat + 1 + 2 * f.len.toNat +
        (separator sep).length * (f.len.toNat - 1) := by
  simp only [Slot.text_fd, List.length_append, List.length_cons, List.length_nil, hexU_length, decByte_length,
    textOfPayload_length, payload_take_length f.data h]
  omega

/-- The digits of an identifier word are 1 to 8. -/
theorem digitCount_word (w : Word) : 1 ≤ digitCount 16 w.toNat ∧ digitCount 16 w.toNat ≤ 8 :=
  ⟨one_le_digitCount _ _, digitCount_le (by decide) (by decide) w.isLt⟩

/-- The decimal digits of a byte are 1 to 3. -/
theorem digitCount_byte (b : Byte) : 1 ≤ digitCount 10 b.toNat ∧ digitCount 10 b.toNat ≤ 3 :=
  ⟨one_le_digitCount _ _, digitCount_le (by decide) (by decide) (b.isLt.trans (by decide))⟩

/-- Settles O52: the parts of a text add up, and the bounds are those of the digit counts and of `len`. -/
theorem textLength : Obligations.TextLength := by
  refine fun sep => ⟨fun c hwf => ?_, fun f hwf => ?_⟩
  · have hlen := (slotWf_classic_iff c).1 hwf
    have hid := digitCount_word c.idw
    rw [text_classic_length sep hlen, separator_length]
    refine ⟨rfl, ?_⟩
    cases sep <;> dsimp only <;> omega
  · obtain ⟨hlen, -⟩ := (slotWf_fd_iff f).1 hwf
    have hid := digitCount_word f.idw
    have hflags := digitCount_byte f.flags
    rw [text_fd_length sep hlen, separator_length]
    refine ⟨rfl, ?_⟩
    cases sep <;> dsimp only <;> omega

end Sys2Proof.Machine
end

section
/-! SUPPORT. The rules over all commands (10_state.md sections 3 and 7, 60_exceptions.md): what a step does with the event at
the head of the stream, what a command leaves unchanged, and what a run leaves in `STATUS.STICKY`. Each follows from the one
completion of a command, `exec_completesOnce`. -/

namespace Sys2Proof.Machine

open Sys2Proof.Safety

/-! ## One step, by the event -/

/-- Settles O5: the decoded arm of a step that takes a command. -/
theorem stepRunsDecodedInstruction : Obligations.StepRunsDecodedInstruction := by
  intro s c rest i hs hd _
  rw [step_command hs, hd]
  rfl

/-- Settles O7: the reset pulse answers the state after reset, an empty stream the same state. -/
theorem stepOnResetPulseAndIdle : Obligations.StepOnResetPulseAndIdle :=
  ⟨fun s rest hs => ⟨s.applyReset rest, step_reset hs, fun k => State.applyReset_slot s k rest,
    Status.clear_word, rfl, rfl, rfl⟩, fun _ => step_idle⟩

/-! ## What a command leaves unchanged -/

/-- Settles O18: a command completes once, and a completion touches the response, `STATUS` and one slot at most. -/
theorem commandFrame : Obligations.CommandFrame := by
  intro i s t ht
  have hslot : ∀ k, writes i ≠ some k → t.slot k = s.slot k := fun k hk =>
    exec_keeps_slot ht fun hw => absurd hw hk
  cases h : isSystem i with
  | true =>
    obtain ⟨x, val, hx⟩ := exec_system i s h
    obtain rfl := Host.Outcome.next.inj (hx.symm.trans ht)
    exact ⟨rfl, rfl, rfl, hslot⟩
  | false =>
    obtain ⟨c, val, bytes, slots, ha, -⟩ := exec_completesOnce i s h
    obtain ⟨-, -, -, hport, hstream, hcfg⟩ := ha.of_next ht
    exact ⟨hport, hstream, hcfg, hslot⟩

/-! ## The completion of a command -/

/-- The state after a command and its response: the response stands on the port, the stream is carried over, `STICKY` keeps
what it was unless the command clears it and takes a failure in, and a failure has no value and no bytes, writes no slot and
is the last code (10_state.md R16, 60_exceptions.md R163). -/
structure Completion (clears : Bool) (s t : State) (r : Response) : Prop where
  rsp : t.rsp = some r
  stream : t.stream = s.stream
  sticky : t.status.sticky = (!clears && s.status.sticky || decide (r.st ≠ .ok))
  failure : r.st ≠ .ok → (∀ k, t.slot k = s.slot k) ∧ r.val = 0 ∧ r.bytes = [] ∧ t.status.last = r.st

theorem completion_fail (s : State) (c : StatusCode) : ∃ t r, s.fail c = .next t ∧ Completion false s t r :=
  ⟨_, _, rfl, rfl, rfl, by simp [status_bne_ok], fun _ => ⟨fun _ => rfl, rfl, rfl, rfl⟩⟩

/-- A system command responds `OK` and nothing more, but for `CLRST`, which clears `STATUS` (47_system.md R151 to R153). -/
theorem exec_system_completion {i : Instr} (h : isSystem i = true) (s : State) :
    ∃ t r, exec i s = .next t ∧ Completion (decide (i = .clrst)) s t r := by
  cases i <;> simp only [isSystem, Bool.false_eq_true] at h
  case nop => exact ⟨_, _, exec_nop s, rfl, rfl, by simp, fun hne => absurd rfl hne⟩
  case rdst => exact ⟨_, _, exec_rdst s, rfl, rfl, by simp, fun hne => absurd rfl hne⟩
  case clrst => exact ⟨_, _, exec_clrst s, rfl, rfl, by simp, fun hne => absurd rfl hne⟩

/-- Every command completes, whatever the state. -/
theorem exec_completion (i : Instr) (s : State) :
    ∃ t r, exec i s = .next t ∧ Completion (decide (i = .clrst)) s t r := by
  cases h : isSystem i with
  | true => exact exec_system_completion h s
  | false =>
    have hne : i ≠ .clrst := by
      rintro rfl
      simp [isSystem] at h
    obtain ⟨st, val, bytes, slots, ⟨t, ht, hrsp, hlast, hsticky, hslot, -, hstream, -⟩, hcases⟩ :=
      exec_completesOnce i s h
    refine ⟨t, _, ht, hrsp, hstream, by simpa [hne] using hsticky, fun hfail => ?_⟩
    rcases hcases with ⟨rfl, hempty⟩ | ⟨_, _, _, _, rfl⟩
    · exact ⟨hslot, (hempty hfail).1, (hempty hfail).2, hlast⟩
    · exact absurd rfl hfail

/-- Every command word presented completes, legal or not, whatever the state. -/
theorem step_completion {s : State} {c : Command} {rest : List HostEvent} (hs : s.stream = .command c :: rest) :
    ∃ t r, step s = .next t ∧ Completion (decide (decode c.cw = .ok .clrst)) (s.present c rest) t r := by
  rw [step_command hs]
  cases decode c.cw with
  | error e => simpa [State.illegal] using completion_fail (s.present c rest) .eIllegal
  | ok i => simpa using exec_completion i (s.present c rest)

/-- Settles O8: a step that takes a command completes. -/
theorem everyCommandGetsAResponse : Obligations.EveryCommandGetsAResponse := by
  intro s c rest hs
  obtain ⟨t, r, ht, hcompl⟩ := step_completion hs
  exact ⟨t, r, ht, hcompl.rsp, hcompl.stream⟩

/-- Settles O14: the failing completion of a step. -/
theorem failureWritesNoSlot : Obligations.FailureWritesNoSlot := by
  intro s t c rest r hs ht hr hne
  obtain ⟨t', r', ht', hcompl⟩ := step_completion hs
  obtain rfl := Host.Outcome.next.inj (ht'.symm.trans ht)
  obtain rfl := Option.some.inj (hcompl.rsp.symm.trans hr)
  obtain ⟨hslot, hval, hbytes, hlast⟩ := hcompl.failure hne
  exact ⟨hslot, hval, by rw [Response.blen, hbytes]; rfl, hlast, by simp [hcompl.sticky, hne]⟩

/-! ## Runs -/

/-- The stream presents commands only, none of them a legal `CLRST`. -/
def NeverClears (stream : List HostEvent) : Prop :=
  ∀ e ∈ stream, ∃ c, e = .command c ∧ decode c.cw ≠ .ok .clrst

/-- One more step of a run that never clears: its response, with which `STICKY` is joined, and the run from there on. -/
theorem observe_succ_of_neverClears {n : Nat} {s : State} (h : NeverClears s.stream) (hn : n + 1 ≤ s.stream.length) :
    ∃ t r, observe (n + 1) s = (some r :: (observe n t).1, (observe n t).2) ∧ NeverClears t.stream ∧
      n ≤ t.stream.length ∧ t.status.sticky = (s.status.sticky || decide (r.st ≠ .ok)) := by
  cases hs : s.stream with
  | nil => simp [hs] at hn
  | cons e rest =>
    rw [hs] at h hn
    obtain ⟨c, rfl, hc⟩ := h e List.mem_cons_self
    obtain ⟨t, r, ht, hcompl⟩ := step_completion hs
    have hstream : t.stream = rest := hcompl.stream
    refine ⟨t, r, by rw [observe, ht, ← hcompl.rsp], ?_, ?_, by simpa [hc] using hcompl.sticky⟩
    · exact hstream ▸ fun e he => h e (List.mem_cons_of_mem _ he)
    · rw [hstream]
      exact Nat.le_of_succ_le_succ hn

/-- Every step of a run that never clears responds, and `STICKY` at the end joins the failures among the responses. -/
theorem observe_sticky (n : Nat) (s : State) (h : NeverClears s.stream) (hn : n ≤ s.stream.length) :
    (∀ x ∈ (observe n s).1, ∃ r, x = some r) ∧
      ((observe n s).2.status.sticky = true ↔
        s.status.sticky = true ∨ ∃ r, some r ∈ (observe n s).1 ∧ r.st ≠ .ok) := by
  induction n generalizing s with
  | zero => simp [observe]
  | succ n ih =>
    obtain ⟨t, r, hobs, ht, hlen, hsticky⟩ := observe_succ_of_neverClears h hn
    obtain ⟨hall, hiff⟩ := ih t ht hlen
    rw [hobs]
    refine ⟨List.forall_mem_cons.2 ⟨⟨r, rfl⟩, hall⟩, ?_⟩
    simp only [hiff, hsticky, Bool.or_eq_true, decide_eq_true_eq, List.mem_cons, Option.some.injEq, or_assoc, or_and_right,
      exists_or, exists_eq_left]

/-- Settles O16: the failures joined along the run; without one, every code is that of `OK`. -/
theorem stickyRecordsEveryFailure : Obligations.StickyRecordsEveryFailure := by
  intro n s h hn
  obtain ⟨hall, hiff⟩ := observe_sticky n s h hn
  refine ⟨hiff, fun hclear x hx => ?_⟩
  obtain ⟨r, rfl⟩ := hall x hx
  have hok : r.st = .ok := by
    by_contra hne
    simp [hiff.2 (.inr ⟨r, hx, hne⟩)] at hclear
  exact ⟨r, rfl, by rw [sourceDefined, hok]; rfl⟩

end Sys2Proof.Machine
end

section
/-! SUPPORT. The invariants (10_state.md sections 1 and 4): what each command writes meets the slot invariants, what it
answers fits the response port, and every completion keeps the machine's invariant on these two grounds. -/

namespace Sys2Proof.Machine

open Sys2Proof.Safety

/-! ## The frames that commands write -/

theorem dropRtr_getLsbD_30 (w : Word) : (dropRtr w).getLsbD 30 = false := by
  rw [dropRtr_getLsbD w 30 (by decide)]
  rfl

/-- The remote flag of a packed word is the one asked for. -/
theorem getLsbD_30_of_packId {id w : Word} {e r x : Bool} (hw : packId id e r x = some w) : w.getLsbD 30 = r := by
  obtain ⟨h, rfl⟩ := (packId_eq_some_iff id w e r x).1 hw
  exact idWord_getLsbD_30 e r x h

theorem slotWf_widen {c : ClassicFrame} (h : slotWf (.classic c) = true) : slotWf (.fd c.widen) = true :=
  (slotWf_fd_iff _).2 ⟨((slotWf_classic_iff c).1 h).trans (by decide), dropRtr_getLsbD_30 c.idw⟩

theorem slotWf_narrow {f : FdFrame} (h : f.len.toNat ≤ 8) : slotWf (.classic f.narrow) = true :=
  (slotWf_classic_iff _).2 h

theorem slotWf_classicOfImage {cfg : Config} {p : Command} (h : (p.dinByte 4).toNat ≤ 8) :
    slotWf (.classic (p.classicOfImage cfg)) = true :=
  (slotWf_classic_iff _).2 h

theorem slotWf_fdOfImage {cfg : Config} {p : Command} (h : (p.dinByte 4).toNat ≤ 64)
    (hw : (imageWordOf cfg.imageEndian p).getLsbD 30 = false) : slotWf (.fd (p.fdOfImage cfg)) = true := by
  rw [Command.fdOfImage_eq]
  exact (slotWf_fd_iff _).2 ⟨h, hw⟩

/-! ## The bytes that commands answer -/

theorem payload_length_le (v : Slot) : v.payload.length ≤ 205 := by
  cases v <;> simp [Slot.payload]

theorem image_length_le {cfg : Config} (h : cfg.wf = true) (v : Slot) : (v.image cfg).length ≤ 205 := by
  have hc := Config.classicImageWf_of_wf h
  have hf := Config.fdImageWf_of_wf h
  cases v with
  | empty => exact Nat.zero_le _
  | classic c =>
    rw [Slot.image, classicImage_length cfg c hc]
    simp only [Config.classicImageWf, Bool.and_eq_true, decide_eq_true_eq] at hc
    omega
  | fd f =>
    rw [Slot.image, fdImage_length cfg f hf]
    simp only [Config.fdImageWf, Bool.and_eq_true, decide_eq_true_eq] at hf
    omega

theorem text_length_le (sep : RenderSep) {v : Slot} (h : slotWf v = true) : (v.text sep).length ≤ 205 := by
  obtain ⟨hclassic, hfd⟩ := textLength sep
  cases v with
  | empty => exact Nat.zero_le _
  | classic c => exact (hclassic c h).2.2.trans (by decide)
  | fd f => exact (hfd f h).2.2

/-! ## Completions keep the invariant -/

/-- A next state of the outcome meets the invariant. -/
def KeepsInv (o : Host.Outcome State Fault Refusal) : Prop := ∀ t, o = .next t → Inv t

section KeepsInv

variable {s : State} (hs : Inv s)
include hs

theorem cfg_wf_of_inv : s.cfg.wf = true := hs.1

theorem slotWf_of_inv (k : SlotNo) : slotWf (s.slot k) = true := hs.2.1 k

theorem inv_complete {c : StatusCode} {val : Word} {bytes : List Byte} (h : responseWf ⟨c, val, bytes⟩ = true) :
    Inv (s.complete c val bytes) := by
  obtain ⟨hcfg, hslots, -⟩ := hs
  refine ⟨hcfg, hslots, ?_⟩
  rintro r ⟨⟩
  exact h

theorem inv_setSlot (fd : SlotNo) {v : Slot} (h : slotWf v = true) : Inv (s.setSlot fd v) := by
  obtain ⟨hcfg, hslots, hrsp⟩ := hs
  refine ⟨hcfg, fun k => ?_, hrsp⟩
  rw [State.slot_setSlot]
  split
  exacts [h, hslots k]

theorem keepsInv_ok (val : Word) {bytes : List Byte} (h : bytes.length ≤ 205) : KeepsInv (s.ok val bytes) := by
  rintro t ⟨⟩
  exact inv_complete hs (by simp [responseWf, h])

theorem keepsInv_fail (c : StatusCode) : KeepsInv (s.fail c) := by
  rintro t ⟨⟩
  exact inv_complete hs (by simp [responseWf])

theorem keepsInv_okWrite (fd : SlotNo) {v : Slot} (h : slotWf v = true) : KeepsInv (s.okWrite fd v) := by
  rintro t ⟨⟩
  exact inv_complete (inv_setSlot hs fd h) (by simp [responseWf])

theorem keepsInv_withHeader (fs : SlotNo) {k : Header → Host.Outcome State Fault Refusal}
    (hk : ∀ x, KeepsInv (k x)) : KeepsInv (s.withHeader fs k) := by
  rcases withHeader_cases s fs k with ⟨_, h⟩ | ⟨x, _, h⟩ <;> rw [h]
  exacts [keepsInv_fail hs _, hk x]

theorem keepsInv_withFrame (fs : SlotNo) {k : Slot → Host.Outcome State Fault Refusal}
    (hk : ∀ v, slotWf v = true → KeepsInv (k v)) : KeepsInv (s.withFrame fs k) := by
  rcases withFrame_cases s fs k with ⟨_, h⟩ | ⟨_, h⟩ <;> rw [h]
  exacts [keepsInv_fail hs _, hk _ (slotWf_of_inv hs fs)]

theorem keepsInv_withClassic (fs : SlotNo) {k : ClassicFrame → Host.Outcome State Fault Refusal}
    (hk : ∀ c, slotWf (.classic c) = true → KeepsInv (k c)) : KeepsInv (s.withClassic fs k) := by
  rcases withClassic_cases s fs k with ⟨c, hc, h⟩ | ⟨_, h⟩ <;> rw [h]
  exacts [hk c (hc ▸ slotWf_of_inv hs fs), keepsInv_fail hs _]

theorem keepsInv_withFd (fs : SlotNo) {k : FdFrame → Host.Outcome State Fault Refusal}
    (hk : ∀ f, slotWf (.fd f) = true → KeepsInv (k f)) : KeepsInv (s.withFd fs k) := by
  rcases withFd_cases s fs k with ⟨f, hf, h⟩ | ⟨_, h⟩ <;> rw [h]
  exacts [hk f (hf ▸ slotWf_of_inv hs fs), keepsInv_fail hs _]

/-- A constructor builds from an accepted length and a packed word. -/
theorem keepsInv_construct (fd : SlotNo) (n : Nat) (e r x : Bool) {build : Word → Slot}
    (hb : ∀ w, s.port.dlen.toNat ≤ n → w.getLsbD 30 = r → slotWf (build w) = true) :
    KeepsInv (s.construct fd n e r x build) := by
  rcases construct_cases s fd n e r x build with ⟨_, h⟩ | ⟨_, _, h⟩ | ⟨w, hlen, hw, h⟩ <;> rw [h]
  exacts [keepsInv_fail hs _, keepsInv_fail hs _, keepsInv_okWrite hs fd (hb w hlen (getLsbD_30_of_packId hw))]

/-- Every command keeps the invariant. -/
theorem exec_keepsInv (i : Instr) : KeepsInv (exec i s) := by
  cases i with
  | nop | rdst | clrst =>
    obtain ⟨hcfg, hslots, -⟩ := hs
    rintro t ⟨⟩
    refine ⟨hcfg, hslots, ?_⟩
    rintro r ⟨⟩
    rfl
  | idpack err rtr ext =>
    simp only [exec, execIdpack]
    split
    exacts [keepsInv_fail hs _, keepsInv_ok hs _ (Nat.zero_le _)]
  | idraw | idsem | idflg | gkind fs => exact keepsInv_ok hs _ (Nat.zero_le _)
  | cnew fd err rtr ext => exact keepsInv_construct hs fd _ _ _ _ fun w hlen _ => (slotWf_classic_iff _).2 hlen
  | crtr fd => exact keepsInv_construct hs fd _ _ _ _ fun w hlen _ => (slotWf_classic_iff _).2 hlen
  | fnew fd esi brs err ext =>
    exact keepsInv_construct hs fd _ _ _ _ fun w hlen hw => (slotWf_fd_iff _).2 ⟨hlen, hw⟩
  | frtr fd => exact keepsInv_fail hs _
  | fsbrs fs on | fsesi fs on => exact keepsInv_withFd hs fs fun f hf => keepsInv_okWrite hs fs hf
  | fgbrs fs | fgesi fs | fgflg fs => exact keepsInv_withFd hs fs fun _ _ => keepsInv_ok hs _ (Nat.zero_le _)
  | gidw fs | graw fs | gsid fs | glen fs | gerrw fs | giserr fs | gisext fs =>
    exact keepsInv_withHeader hs fs fun _ => keepsInv_ok hs _ (Nat.zero_le _)
  | gdata fs => exact keepsInv_withHeader hs fs fun _ => keepsInv_ok hs _ (payload_length_le _)
  | gisrtr fs =>
    simp only [exec, execGisrtr]
    exact keepsInv_withFrame hs fs fun _ _ => keepsInv_ok hs _ (Nat.zero_le _)
  | decerr fs =>
    simp only [exec, execDecerr, decerrWith]
    refine keepsInv_withFrame hs fs fun v _ => ?_
    split
    exacts [keepsInv_ok hs _ (Nat.zero_le _), keepsInv_fail hs _]
  | widen fd fs => exact keepsInv_withClassic hs fs fun c hc => keepsInv_okWrite hs fd (slotWf_widen hc)
  | narrow fd fs =>
    rw [exec_narrow]
    refine keepsInv_withFd hs fs fun f _ => ?_
    split
    exacts [keepsInv_fail hs _, keepsInv_okWrite hs fd (slotWf_narrow (Nat.not_lt.1 ‹_›))]
  | fmov fd fs =>
    rw [exec_fmov]
    exact keepsInv_withFrame hs fs fun v hv => keepsInv_okWrite hs fd hv
  | fclr fd => exact keepsInv_okWrite hs fd rfl
  | feq fs ft =>
    simp only [exec, execFeq]
    exact keepsInv_withFrame hs fs fun _ _ => keepsInv_withFrame hs ft fun _ _ => keepsInv_ok hs _ (Nat.zero_le _)
  | ser fs =>
    simp only [exec, execSer, State.okBytes]
    exact keepsInv_withFrame hs fs fun v _ => keepsInv_ok hs _ (image_length_le (cfg_wf_of_inv hs) v)
  | rend fs =>
    simp only [exec, execRend, State.okBytes]
    exact keepsInv_withFrame hs fs fun v hv => keepsInv_ok hs _ (text_length_le _ hv)
  | desc fd =>
    rw [exec_desc]
    split
    exacts [keepsInv_fail hs _, keepsInv_okWrite hs fd (slotWf_classicOfImage (Nat.not_lt.1 ‹_›))]
  | desf fd =>
    rw [exec_desf]
    split
    · exact keepsInv_fail hs _
    split
    exacts [keepsInv_fail hs _,
      keepsInv_okWrite hs fd (slotWf_fdOfImage (Nat.not_lt.1 ‹_›) (Bool.eq_false_iff.2 ‹_›))]

end KeepsInv

/-! ## Steps keep the invariant -/

/-- The slots of a block just reset are empty and nothing is on its response port. -/
theorem inv_applyReset {s : State} (h : s.cfg.wf = true) (rest : List HostEvent) : Inv (s.applyReset rest) :=
  ⟨h, fun k => by rw [State.applyReset_slot]; rfl, fun r hr => by simp at hr⟩

/-- Settles O2: the default parameters are well formed. -/
theorem resetMeetsInvariant : Obligations.ResetMeetsInvariant := inv_applyReset (s := State.reset) (by decide) []

/-- Settles O3: waiting changes nothing, a reset empties everything, and a command completes at a state that meets the
invariant. -/
theorem stepKeepsInvariant : Obligations.StepKeepsInvariant := by
  intro s t hs ht
  rcases step_cases s with ⟨_, he⟩ | ⟨rest, _, he⟩ | ⟨c, rest, _, _, _, he⟩ | ⟨c, rest, i, _, _, he⟩ <;> rw [he] at ht
  · exact Host.Outcome.next.inj ht ▸ hs
  · exact Host.Outcome.next.inj ht ▸ inv_applyReset (cfg_wf_of_inv hs) rest
  · exact keepsInv_fail (s := s.present c rest) hs .eIllegal t ht
  · exact exec_keepsInv (s := s.present c rest) hs i t ht

end Sys2Proof.Machine
end

section
/-! SUPPORT. Zero tails and packed words (10_state.md section 1, invariants (d) and (e)): a command that completes `OK` wrote
the frame it built, and the frames of the constructors and the conversions are zero beyond `len`. -/

namespace Sys2Proof.Machine

open Sys2Proof.Safety

/-! ## Frames with a zero tail -/

theorem zeroTail_classic_zeroFilled (w : Word) (len : Byte) {n : Nat} (hn : n ≤ len.toNat) (f : Nat → Byte) :
    zeroTail (.classic ⟨w, len, zeroFilled 8 n f⟩) := fun k hk => by
  have hlt : ¬ k.val < n := Nat.not_lt.2 (hn.trans hk)
  simp [hlt]

theorem zeroTail_fd_zeroFilled (w : Word) (len flags : Byte) {n : Nat} (hn : n ≤ len.toNat) (f : Nat → Byte) :
    zeroTail (.fd ⟨w, len, flags, zeroFilled 64 n f⟩) := fun k hk => by
  have hlt : ¬ k.val < n := Nat.not_lt.2 (hn.trans hk)
  simp [hlt]

theorem zeroTail_narrow (f : FdFrame) : zeroTail (.classic f.narrow) :=
  zeroTail_classic_zeroFilled _ f.len (Nat.le_refl _) _

/-- A widened buffer adds zeros to the tail it had. -/
theorem zeroTail_widen {c : ClassicFrame} (h : zeroTail (.classic c)) : zeroTail (.fd c.widen) := by
  intro k hk
  have hdata : c.widen.data[k] = bufByte c.data k.val := filled_getElem 64 _ k.val k.isLt
  rw [hdata]
  by_cases hlt : k.val < 8
  · rw [bufByte_of_lt _ hlt]
    exact h ⟨k.val, hlt⟩ hk
  · simp [bufByte, hlt]

/-! ## What a command wrote -/

/-- An outcome that completes `OK` has in a slot a value with a property. -/
def WritesWith (P : Slot → Prop) (fd : SlotNo) (o : Host.Outcome State Fault Refusal) : Prop :=
  ∀ t, o = .next t → (∃ r, t.rsp = some r ∧ r.st = .ok) → P (t.slot fd)

section WritesWith

variable {P : Slot → Prop} {s : State} (fd : SlotNo)

theorem writesWith_fail {c : StatusCode} (hc : c ≠ .ok) : WritesWith P fd (s.fail c) := by
  rintro t ht ⟨r, hr, hok⟩
  obtain ⟨hrsp, -⟩ := (answers_fail s c).of_next ht
  obtain rfl := Option.some.inj (hr.symm.trans hrsp)
  exact absurd hok hc

theorem writesWith_okWrite {v : Slot} (h : P v) : WritesWith P fd (s.okWrite fd v) := by
  intro t ht _
  obtain ⟨-, -, hslot, -⟩ := (answers_okWrite s fd v).of_next ht
  rwa [hslot, slotsWith, if_pos rfl]

theorem writesWith_construct (n : Nat) (e r x : Bool) {build : Word → Slot} (h : ∀ w, packedWord w → P (build w)) :
    WritesWith P fd (s.construct fd n e r x build) := by
  rcases construct_cases s fd n e r x build with ⟨_, he⟩ | ⟨_, _, he⟩ | ⟨w, _, hw, he⟩ <;> rw [he]
  exacts [writesWith_fail fd (by decide), writesWith_fail fd (by decide),
    writesWith_okWrite fd (h w (packedWord_of_packId hw))]

theorem writesWith_withClassic {fs : SlotNo} {k : ClassicFrame → Host.Outcome State Fault Refusal}
    (hk : ∀ c, s.slot fs = .classic c → WritesWith P fd (k c)) : WritesWith P fd (s.withClassic fs k) := by
  rcases withClassic_cases s fs k with ⟨c, hc, he⟩ | ⟨_, he⟩ <;> rw [he]
  exacts [hk c hc, writesWith_fail fd (by decide)]

theorem writesWith_withFd {fs : SlotNo} {k : FdFrame → Host.Outcome State Fault Refusal}
    (hk : ∀ f, s.slot fs = .fd f → WritesWith P fd (k f)) : WritesWith P fd (s.withFd fs k) := by
  rcases withFd_cases s fs k with ⟨f, hf, he⟩ | ⟨_, he⟩ <;> rw [he]
  exacts [hk f hf, writesWith_fail fd (by decide)]

theorem writesWith_withFrame {fs : SlotNo} {k : Slot → Host.Outcome State Fault Refusal}
    (hk : WritesWith P fd (k (s.slot fs))) : WritesWith P fd (s.withFrame fs k) := by
  rcases withFrame_cases s fs k with ⟨_, he⟩ | ⟨_, he⟩ <;> rw [he]
  exacts [writesWith_fail fd (by decide), hk]

end WritesWith

/-- What a constructor leaves: a zero tail and a packed word (10_state.md R12 (d), (e)). -/
def Constructed (v : Slot) : Prop := zeroTail v ∧ ∀ h, v.header = some h → packedWord h.idw

theorem constructed_classic {c : ClassicFrame} (hz : zeroTail (.classic c)) (hw : packedWord c.idw) :
    Constructed (.classic c) :=
  ⟨hz, fun _ hx => Option.some.inj hx ▸ hw⟩

theorem constructed_fd {f : FdFrame} (hz : zeroTail (.fd f)) (hw : packedWord f.idw) : Constructed (.fd f) :=
  ⟨hz, fun _ hx => Option.some.inj hx ▸ hw⟩

section Commands

variable (s : State) (fd fs : SlotNo)

theorem exec_cnew_constructs (err rtr ext : Bool) : WritesWith Constructed fd (exec (.cnew fd err rtr ext) s) :=
  writesWith_construct fd _ _ _ _ fun w hw =>
    constructed_classic (zeroTail_classic_zeroFilled w _ (Nat.le_refl _) _) hw

theorem exec_crtr_constructs : WritesWith Constructed fd (exec (.crtr fd) s) :=
  writesWith_construct fd _ _ _ _ fun w hw =>
    constructed_classic (zeroTail_classic_zeroFilled w _ (Nat.zero_le _) _) hw

theorem exec_fnew_constructs (esi brs err ext : Bool) :
    WritesWith Constructed fd (exec (.fnew fd esi brs err ext) s) :=
  writesWith_construct fd _ _ _ _ fun w hw => constructed_fd (zeroTail_fd_zeroFilled w _ _ (Nat.le_refl _) _) hw

theorem exec_narrow_zeroTail : WritesWith zeroTail fd (exec (.narrow fd fs) s) := by
  rw [exec_narrow]
  refine writesWith_withFd fd fun f _ => ?_
  split
  exacts [writesWith_fail fd (by decide), writesWith_okWrite fd (zeroTail_narrow f)]

theorem exec_widen_zeroTail (h : zeroTail (s.slot fs)) : WritesWith zeroTail fd (exec (.widen fd fs) s) :=
  writesWith_withClassic fd fun _ hc => writesWith_okWrite fd (zeroTail_widen (hc ▸ h))

theorem exec_fmov_zeroTail (h : zeroTail (s.slot fs)) : WritesWith zeroTail fd (exec (.fmov fd fs) s) := by
  rw [exec_fmov]
  exact writesWith_withFrame fd (writesWith_okWrite fd h)

end Commands

/-- Settles O4: for each command named, the property of the slot it writes; the other commands are not spoken of. -/
theorem constructedSlotsAreZeroFilled : Obligations.ConstructedSlotsAreZeroFilled := by
  intro i s t fd ht hw hok
  cases i with
  | cnew fd' err rtr ext =>
    obtain rfl := Option.some.inj hw
    exact exec_cnew_constructs s fd' err rtr ext t ht hok
  | crtr fd' =>
    obtain rfl := Option.some.inj hw
    exact exec_crtr_constructs s fd' t ht hok
  | fnew fd' esi brs err ext =>
    obtain rfl := Option.some.inj hw
    exact exec_fnew_constructs s fd' esi brs err ext t ht hok
  | narrow fd' fs =>
    obtain rfl := Option.some.inj hw
    exact exec_narrow_zeroTail s fd' fs t ht hok
  | widen fd' fs =>
    obtain rfl := Option.some.inj hw
    exact fun h => exec_widen_zeroTail s fd' fs h t ht hok
  | fmov fd' fs =>
    obtain rfl := Option.some.inj hw
    exact fun h => exec_fmov_zeroTail s fd' fs h t ht hok
  | _ => trivial

end Sys2Proof.Machine
end

section
/-! SUPPORT. The order of checks and the statuses of each command (60_exceptions.md R162, section 2): once the tags are
accepted, a command whose only failure is a refused tag completes `OK`; the other failures are those of the commands' own
rules. The statuses all occur at states made for them. -/

namespace Sys2Proof.Machine

open Sys2Proof.Safety

/-! ## Accepted tags -/

/-- The outcome carries a response with the code. -/
def CompletesWith (c : StatusCode) (o : Host.Outcome State Fault Refusal) : Prop :=
  ∃ r, responseOf o = some r ∧ r.st = c

section CompletesWith

variable {c : StatusCode} {s : State} {fs : SlotNo}

theorem completesWith_of_answers {o : Host.Outcome State Fault Refusal} {val : Word} {bytes : List Byte}
    {slots : SlotNo → Slot} (h : Answers o s c val bytes slots) : CompletesWith c o :=
  ⟨_, h.response, rfl⟩

theorem completesWith_ok (val : Word) (bytes : List Byte) : CompletesWith .ok (s.ok val bytes) :=
  completesWith_of_answers (answers_ok s val bytes)

theorem completesWith_okWrite (fd : SlotNo) (v : Slot) : CompletesWith .ok (s.okWrite fd v) :=
  completesWith_of_answers (answers_okWrite s fd v)

theorem ne_empty_of_accepts (h : TagReq.anyFrame.accepts (s.slot fs) = true) : s.slot fs ≠ .empty := by
  intro he
  simp [he, TagReq.accepts] at h

theorem completesWith_withHeader (h : TagReq.anyFrame.accepts (s.slot fs) = true)
    {k : Header → Host.Outcome State Fault Refusal} (hk : ∀ x, CompletesWith c (k x)) :
    CompletesWith c (s.withHeader fs k) := by
  rcases withHeader_cases s fs k with ⟨hnone, _⟩ | ⟨x, _, he⟩
  · cases hs : s.slot fs <;> simp [hs, TagReq.accepts, Slot.header] at h hnone
  · exact he ▸ hk x

theorem completesWith_withFrame (h : TagReq.anyFrame.accepts (s.slot fs) = true)
    {k : Slot → Host.Outcome State Fault Refusal} (hk : ∀ v, CompletesWith c (k v)) :
    CompletesWith c (s.withFrame fs k) := by
  rw [withFrame_of_ne_empty (ne_empty_of_accepts h)]
  exact hk _

theorem completesWith_withClassic (h : TagReq.classicOnly.accepts (s.slot fs) = true)
    {k : ClassicFrame → Host.Outcome State Fault Refusal} (hk : ∀ f, CompletesWith c (k f)) :
    CompletesWith c (s.withClassic fs k) := by
  rcases withClassic_cases s fs k with ⟨f, _, he⟩ | ⟨hne, _⟩
  · exact he ▸ hk f
  · cases hs : s.slot fs <;> simp_all [TagReq.accepts]

theorem completesWith_withFd (h : TagReq.fdOnly.accepts (s.slot fs) = true)
    {k : FdFrame → Host.Outcome State Fault Refusal} (hk : ∀ f, CompletesWith c (k f)) :
    CompletesWith c (s.withFd fs k) := by
  rcases withFd_cases s fs k with ⟨f, _, he⟩ | ⟨hne, _⟩
  · exact he ▸ hk f
  · cases hs : s.slot fs <;> simp_all [TagReq.accepts]

end CompletesWith

/-- A command that can fail by a refused tag alone completes `OK` when every tag is accepted. -/
theorem exec_ok_of_accepted {i : Instr} {s : State} (hi : ∀ c ∈ possibleStatuses i, c = .ok ∨ c = .eKind)
    (h : ∀ q ∈ reads i, q.2.accepts (s.slot q.1) = true) : CompletesWith .ok (exec i s) := by
  cases i with
  | idpack _ _ _ | cnew _ _ _ _ | crtr _ | fnew _ _ _ _ _ | frtr _ | decerr _ | narrow _ _ | desc _ | desf _ =>
    simp [possibleStatuses] at hi
  | nop | rdst | clrst => exact ⟨_, rfl, rfl⟩
  | idraw | idsem | idflg | gkind fs => exact completesWith_ok _ _
  | fclr fd => exact completesWith_okWrite _ _
  | fsbrs fs on | fsesi fs on =>
    exact completesWith_withFd (h (fs, .fdOnly) (by simp [reads])) fun _ => completesWith_okWrite _ _
  | fgbrs fs | fgesi fs | fgflg fs =>
    exact completesWith_withFd (h (fs, .fdOnly) (by simp [reads])) fun _ => completesWith_ok _ _
  | gidw fs | graw fs | gsid fs | glen fs | gerrw fs | giserr fs | gisext fs | gdata fs =>
    exact completesWith_withHeader (h (fs, .anyFrame) (by simp [reads])) fun _ => completesWith_ok _ _
  | gisrtr fs | ser fs | rend fs =>
    simp only [exec, execGisrtr, execSer, execRend, State.okBytes]
    exact completesWith_withFrame (h (fs, .anyFrame) (by simp [reads])) fun _ => completesWith_ok _ _
  | widen fd fs =>
    exact completesWith_withClassic (h (fs, .classicOnly) (by simp [reads])) fun _ => completesWith_okWrite _ _
  | fmov fd fs =>
    rw [exec_fmov]
    exact completesWith_withFrame (h (fs, .anyFrame) (by simp [reads])) fun _ => completesWith_okWrite _ _
  | feq fs ft =>
    simp only [exec, execFeq]
    exact completesWith_withFrame (h (fs, .anyFrame) (by simp [reads])) fun _ =>
      completesWith_withFrame (h (ft, .anyFrame) (by simp [reads])) fun _ => completesWith_ok _ _

/-- `DECERR` on a frame completes by the collaborator's answer. -/
theorem exec_decerr_completes {s : State} {fs : SlotNo} (h : s.slot fs ≠ .empty) :
    ∃ r, responseOf (exec (.decerr fs) s) = some r ∧
      (r.st = .decodeFail ↔ Config.errDecode (s.slot fs).tagCode ((s.slot fs).image s.cfg) = none) ∧
      (r.st = .ok ↔ Config.errDecode (s.slot fs).tagCode ((s.slot fs).image s.cfg) ≠ none) := by
  rw [exec_decerr_of_ne_empty h]
  cases Config.errDecode (s.slot fs).tagCode ((s.slot fs).image s.cfg) with
  | none => exact ⟨_, rfl, by simp⟩
  | some d => exact ⟨_, rfl, by simp⟩

/-- A slot that a command does not read does not change its response. -/
theorem responseOf_exec_setSlot {i : Instr} (s : State) {k : SlotNo} (v : Slot) (h : ∀ q ∈ reads i, q.1 ≠ k) :
    responseOf (exec i (s.setSlot k v)) = responseOf (exec i s) := by
  obtain ⟨t, u, ht, hu, hrsp, -⟩ := exec_setSlot_of_not_read s v h
  rw [ht, hu]
  exact hrsp

/-- Settles O21: the encoding, then the tags, then the checks in the order of each command's own rule; the destination is
not read. -/
theorem checksInOrder : Obligations.ChecksInOrder := by
  refine ⟨fun s c rest hs hw => ?_, fun i s h => ?_, fun i s h => ?_, fun i s fd v _ => responseOf_exec_setSlot s v⟩
  · exact completesWith_of_answers ((illegalWordsCompleteWithEIllegal s c rest hs).1 hw)
  · rw [exec_refused h]
    exact completesWith_of_answers (answers_fail s .eKind)
  · cases i with
    | cnew fd err rtr ext =>
      obtain ⟨-, hlen, hid⟩ := cnewResult s fd err rtr ext
      exact ⟨fun h => completesWith_of_answers (hlen h), fun h h' => completesWith_of_answers (hid h h')⟩
    | crtr fd =>
      obtain ⟨-, hlen, hid⟩ := crtrResult s fd
      exact ⟨fun h => completesWith_of_answers (hlen h), fun h h' => completesWith_of_answers (hid h h')⟩
    | fnew fd esi brs err ext =>
      obtain ⟨-, hlen, hid⟩ := fnewResult s fd esi brs err ext
      exact ⟨fun h => completesWith_of_answers (hlen h), fun h h' => completesWith_of_answers (hid h h')⟩
    | idpack err rtr ext => exact fun h => completesWith_of_answers ((idpackResult s err rtr ext).2 h)
    | narrow fd fs =>
      obtain ⟨-, hlen, -⟩ := narrowResult s fd fs
      exact fun f hf h => completesWith_of_answers (hlen f hf h)
    | desc fd => exact fun h => completesWith_of_answers ((descResult s fd).2 h)
    | desf fd =>
      obtain ⟨-, hlen, hformat⟩ := desfResult s fd
      exact ⟨fun h => completesWith_of_answers (hlen h), fun h h' => completesWith_of_answers (hformat h h')⟩
    | decerr fs => exact exec_decerr_completes (ne_empty_of_accepts (h (fs, .anyFrame) (by simp [reads])))
    | frtr fd => exact completesWith_of_answers (frtrNeverConstructs s fd)
    | _ => exact exec_ok_of_accepted (by simp [possibleStatuses]) h

/-! ## Every status occurs -/

/-- The state after reset with one value in all four slots. -/
def stateOfSlot (v : Slot) : State := { State.reset with slots := Vector.replicate 4 v }

@[simp] theorem stateOfSlot_slot (v : Slot) (k : SlotNo) : (stateOfSlot v).slot k = v := by
  simp [stateOfSlot, State.slot]

/-- The state after reset with fields on the command port, every byte of `DIN` the same. -/
def stateOfPort (arg : Word) (dlen b : Byte) : State :=
  { State.reset with port := ⟨0, arg, dlen, Vector.replicate 72 b⟩ }

def zeroClassicFrame : ClassicFrame := ⟨0, 0, Vector.replicate 8 0⟩

/-- An FD frame, all zero but for its length. -/
def fdFrameOfLen (len : Byte) : FdFrame := ⟨0, len, 0, Vector.replicate 64 0⟩

/-- Some frame has a tag that every read of the command accepts. -/
theorem exists_accepted (i : Instr) : ∃ v, ∀ q ∈ reads i, q.2.accepts v = true := by
  cases i with
  | widen fd fs => exact ⟨.classic zeroClassicFrame, by simp [reads, TagReq.accepts]⟩
  | _ => exact ⟨.fd (fdFrameOfLen 0), by simp [reads, TagReq.accepts]⟩

/-- A command that can complete `E_KIND` does not accept an `EMPTY` slot. -/
theorem exists_refused {i : Instr} (h : .eKind ∈ possibleStatuses i) :
    ∃ q ∈ reads i, q.2.accepts .empty = false := by
  cases i <;> simp [possibleStatuses] at h <;> simp [reads, TagReq.accepts]

/-- The command completes with the code in some state. -/
def Occurs (i : Instr) (c : StatusCode) : Prop := ∃ s, CompletesWith c (exec i s)

theorem occurs_eKind {i : Instr} (h : .eKind ∈ possibleStatuses i) : Occurs i .eKind := by
  obtain ⟨q, hq, href⟩ := exists_refused h
  refine ⟨stateOfSlot .empty, ?_⟩
  rw [exec_refused ⟨q, hq, by rwa [stateOfSlot_slot]⟩]
  exact completesWith_of_answers (answers_fail _ .eKind)

theorem occurs_of_ok_or_eKind {i : Instr} {c : StatusCode} (hi : ∀ c ∈ possibleStatuses i, c = .ok ∨ c = .eKind)
    (hc : c ∈ possibleStatuses i) : Occurs i c := by
  rcases hi c hc with rfl | rfl
  · obtain ⟨v, hv⟩ := exists_accepted i
    exact ⟨stateOfSlot v, exec_ok_of_accepted hi (by simpa using hv)⟩
  · exact occurs_eKind hc

/-- The three outcomes of a constructor, at an operand on each side of its two bounds. -/
theorem occurs_of_construct {i : Instr} {n : Nat} {build : State → Word → Slot} {fd : SlotNo} {e r x : Bool}
    (hi : ∀ s, exec i s = s.construct fd n e r x (build s)) (hn : n < 255) :
    ∀ c ∈ [.ok, .tooMuchData, .idTooLarge], Occurs i c := by
  have h := fun s => hi s ▸ construct_answers s fd n e r x (build s)
  have hok := (h (stateOfPort 0 0 0)).1 (Nat.zero_le _) (by decide)
  have hlen := (h (stateOfPort 0 255 0)).2.1 hn
  have hid := (h (stateOfPort 0xFFFFFFFF 0 0)).2.2 (Nat.zero_le _) (by decide)
  simp only [List.forall_mem_cons]
  exact ⟨⟨_, completesWith_of_answers hok⟩, ⟨_, completesWith_of_answers hlen⟩, ⟨_, completesWith_of_answers hid⟩,
    by simp⟩

/-- Every status of the table occurs, `DECERR` apart. -/
theorem occurs_of_mem_possibleStatuses {i : Instr} {c : StatusCode} (hi : ∀ fs, i ≠ .decerr fs)
    (hc : c ∈ possibleStatuses i) : Occurs i c := by
  cases i with
  | idpack err rtr ext =>
    simp only [possibleStatuses, List.mem_cons, List.not_mem_nil, or_false] at hc
    rcases hc with rfl | rfl
    · exact ⟨stateOfPort 0 0 0, completesWith_of_answers ((idpackResult _ err rtr ext).1 (by decide))⟩
    · exact ⟨stateOfPort 0xFFFFFFFF 0 0, completesWith_of_answers ((idpackResult _ err rtr ext).2 (by decide))⟩
  | cnew fd err rtr ext => exact occurs_of_construct (exec_cnew fd err rtr ext) (by decide) c hc
  | crtr fd => exact occurs_of_construct (exec_crtr fd) (by decide) c hc
  | fnew fd esi brs err ext => exact occurs_of_construct (exec_fnew fd esi brs err ext) (by decide) c hc
  | frtr fd =>
    obtain rfl := List.mem_singleton.1 hc
    exact ⟨State.reset, completesWith_of_answers (frtrNeverConstructs _ fd)⟩
  | decerr fs => exact absurd rfl (hi fs)
  | narrow fd fs =>
    have h := fun len => narrowResult (stateOfSlot (.fd (fdFrameOfLen len))) fd fs
    simp only [possibleStatuses, List.mem_cons, List.not_mem_nil, or_false] at hc
    rcases hc with rfl | rfl | rfl
    · exact ⟨_, completesWith_of_answers ((h 0).1 _ (stateOfSlot_slot _ fs) (by decide))⟩
    · exact ⟨_, completesWith_of_answers ((h 255).2.1 _ (stateOfSlot_slot _ fs) (by decide))⟩
    · exact occurs_eKind (by simp [possibleStatuses])
  | desc fd =>
    have h := fun b => descResult (stateOfPort 0 0 b) fd
    simp only [possibleStatuses, List.mem_cons, List.not_mem_nil, or_false] at hc
    rcases hc with rfl | rfl
    · exact ⟨_, completesWith_of_answers ((h 0).1 (by decide))⟩
    · exact ⟨_, completesWith_of_answers ((h 255).2 (by decide))⟩
  | desf fd =>
    have h := fun b => desfResult (stateOfPort 0 0 b) fd
    simp only [possibleStatuses, List.mem_cons, List.not_mem_nil, or_false] at hc
    rcases hc with rfl | rfl | rfl
    · exact ⟨_, completesWith_of_answers ((h 0).1 (by decide) (by decide))⟩
    · exact ⟨_, completesWith_of_answers ((h 255).2.1 (by decide))⟩
    · exact ⟨_, completesWith_of_answers ((h 0x40).2.2 (by decide) (by decide))⟩
  | _ => exact occurs_of_ok_or_eKind (by simp [possibleStatuses]) hc

/-- A collaborator that answers, one that does not, and an `EMPTY` slot. -/
theorem decerrWith_occurs (fs : SlotNo) {c : StatusCode} (hc : c ∈ possibleStatuses (.decerr fs)) :
    ∃ f s, CompletesWith c (decerrWith f fs s) := by
  simp only [possibleStatuses, List.mem_cons, List.not_mem_nil, or_false] at hc
  rcases hc with rfl | rfl | rfl
  · refine ⟨fun _ _ => some 0, stateOfSlot (.classic zeroClassicFrame), ?_⟩
    rw [decerrWith, withFrame_of_ne_empty (by simp)]
    exact completesWith_ok 0 []
  · refine ⟨fun _ _ => none, stateOfSlot (.classic zeroClassicFrame), ?_⟩
    rw [decerrWith, withFrame_of_ne_empty (by simp)]
    exact completesWith_of_answers (answers_fail _ .decodeFail)
  · exact ⟨Config.errDecode, occurs_eKind (i := .decerr fs) (by simp [possibleStatuses])⟩

/-- Settles O20: no other status by the one response of a command, each of them at a state made for it. -/
theorem possibleStatuses : Obligations.PossibleStatuses := by
  refine ⟨fun i s t ht => ?_, fun i c => occurs_of_mem_possibleStatuses, fun fs c => decerrWith_occurs fs⟩
  obtain ⟨r, hr, hmem⟩ := exec_respondsAmong i s
  exact ⟨r, by rwa [ht] at hr, hmem⟩

end Sys2Proof.Machine
end

section
/-! SUPPORT. Unused port fields (10_state.md R17, 30_encoding.md R56): at two states that differ in the command port only, a
command has one and the same effect when the ports agree on the fields it uses. -/

namespace Sys2Proof.Machine

open Sys2Proof.Safety

/-! ## The fields a command uses -/

/-- A zero-filled buffer depends on the bytes it takes. -/
theorem zeroFilled_congr {n len : Nat} {f g : Nat → Byte} (h : ∀ k, k < n → k < len → f k = g k) :
    zeroFilled n len f = zeroFilled n len g := by
  ext k hk
  rw [zeroFilled_getElem, zeroFilled_getElem]
  split
  exacts [by rw [h k hk ‹_›], rfl]

theorem filled_congr {n : Nat} {f g : Nat → Byte} (h : ∀ k, k < n → f k = g k) : filled n f = filled n g := by
  ext k hk
  rw [filled_getElem, filled_getElem, h k hk]

/-- Two ports agree on the first `n` bytes of `DIN`. -/
def AgreeBelow (n : Nat) (p q : Command) : Prop := ∀ k, k < n → p.dinByte k = q.dinByte k

/-- Agreement on the bytes of `DIN` a command uses, when those are the ones below a bound inside `DIN`. -/
theorem agreeBelow_of_agreeOnUsed {cfg : Config} {i : Instr} {p q : Command} {n : Nat} (h : agreeOnUsed cfg i p q)
    (hn : n ≤ 72) (hi : ∀ k, k < n → usesDin cfg p.dlen k i = true) : AgreeBelow n p q := by
  obtain ⟨-, -, hdin⟩ := h
  intro k hk
  have hk72 : k < 72 := hk.trans_le hn
  have heq : p.din[k] = q.din[k] := hdin ⟨k, hk72⟩ (hi k hk)
  simp [Command.dinByte, hk72, heq]

/-- The frame of a classic image is read from the bytes of the image alone. -/
theorem classicOfImage_congr {cfg : Config} {p q : Command} (hcfg : cfg.classicImageWf = true)
    (h : AgreeBelow cfg.classicImageSize p q) : p.classicOfImage cfg = q.classicOfImage cfg := by
  simp only [Config.classicImageWf, Bool.and_eq_true, decide_eq_true_eq] at hcfg
  simp only [Command.classicOfImage, Command.imageWord, Command.imageLen]
  rw [h 0 (by omega), h 1 (by omega), h 2 (by omega), h 3 (by omega), h 4 (by omega),
    filled_congr fun k hk => h (cfg.classicDataOffset + k) (by omega)]

/-- The frame of an FD image is read from the bytes of the image alone. -/
theorem fdOfImage_congr {cfg : Config} {p q : Command} (hcfg : cfg.fdImageWf = true)
    (h : AgreeBelow cfg.fdImageSize p q) : p.fdOfImage cfg = q.fdOfImage cfg := by
  simp only [Config.fdImageWf, Bool.and_eq_true, decide_eq_true_eq] at hcfg
  simp only [Command.fdOfImage, Command.imageWord, Command.imageLen]
  rw [h 0 (by omega), h 1 (by omega), h 2 (by omega), h 3 (by omega), h 4 (by omega), h 5 (by omega),
    filled_congr fun k hk => h (cfg.fdDataOffset + k) (by omega)]

/-! ## The effect at two ports -/

section TwoPorts

variable {i : Instr} {s : State} {p : Command}

/-- The frames need agree for an accepted length only. -/
theorem sameEffect_construct_of_agree (harg : s.port.arg = p.arg) (hdlen : s.port.dlen = p.dlen) (fd : SlotNo) (n : Nat)
    (e r x : Bool) {build build' : Word → Slot} (hb : s.port.dlen.toNat ≤ n → build = build') (hw : writes i = some fd)
    (ht : ∀ w, (build w).tagCode = tagWritten i s.slot) :
    SameEffect i s { s with port := p } (s.construct fd n e r x build)
      (({ s with port := p } : State).construct fd n e r x build') := by
  simp only [State.construct, ← harg, ← hdlen]
  split
  · exact sameEffect_fail _ (by decide)
  · rw [← hb (Nat.not_lt.1 ‹_›)]
    split
    exacts [sameEffect_fail _ (by decide), sameEffect_okWrite _ _ hw (ht _)]

/-- A command has one effect at two ports that agree on the fields it uses. -/
theorem exec_sameEffect_of_agreeOnUsed (hcfg : s.cfg.wf = true) (h : isSystem i = false)
    (hp : agreeOnUsed s.cfg i s.port p) : SameEffect i s { s with port := p } (exec i s) (exec i { s with port := p }) := by
  have hslot : ∀ k, ({ s with port := p } : State).slot k = s.slot k := fun _ => rfl
  have hdin := fun n => agreeBelow_of_agreeOnUsed (n := n) hp
  obtain ⟨harg, hdlen, -⟩ := hp
  cases i with
  | nop | rdst | clrst => simp [isSystem] at h
  | idpack err rtr ext =>
    simp only [exec, execIdpack, ← harg rfl]
    split
    exacts [sameEffect_fail _ (by decide), sameEffect_ok _ _ rfl]
  | idraw | idsem | idflg =>
    simp only [exec, execIdraw, execIdsem, execIdflg, ← harg rfl]
    exact sameEffect_ok _ _ rfl
  | cnew fd err rtr ext =>
    refine sameEffect_construct_of_agree (harg rfl) (hdlen rfl) fd _ _ _ _ (fun hlen => ?_) rfl fun _ => rfl
    have hagree := hdin s.port.dlen.toNat (hlen.trans (by decide)) fun k hk => by
      simpa [usesDin] using ⟨hlen, hk⟩
    simp only [← hdlen rfl, zeroFilled_congr fun k _ hk => hagree k hk]
  | crtr fd =>
    refine sameEffect_construct_of_agree (harg rfl) (hdlen rfl) fd _ _ _ _ (fun _ => ?_) rfl fun _ => rfl
    simp only [← hdlen rfl, zeroFilled_zero]
  | fnew fd esi brs err ext =>
    refine sameEffect_construct_of_agree (harg rfl) (hdlen rfl) fd _ _ _ _ (fun hlen => ?_) rfl fun _ => rfl
    have hagree := hdin s.port.dlen.toNat (hlen.trans (by decide)) fun k hk => by
      simpa [usesDin] using ⟨hlen, hk⟩
    simp only [← hdlen rfl, zeroFilled_congr fun k _ hk => hagree k hk]
  | desc fd =>
    have hwf := Config.classicImageWf_of_wf hcfg
    obtain ⟨⟨hoff, hend⟩, hsize⟩ : (5 ≤ s.cfg.classicDataOffset ∧
        s.cfg.classicDataOffset + 8 ≤ s.cfg.classicImageSize) ∧ s.cfg.classicImageSize ≤ 72 := by
      simpa [Config.classicImageWf] using hwf
    have hagree := hdin s.cfg.classicImageSize hsize fun k hk => by simpa [usesDin] using hk
    rw [exec_desc, exec_desc]
    simp only [← hagree 4 (by omega), ← classicOfImage_congr hwf hagree]
    split
    exacts [sameEffect_fail _ (by decide), sameEffect_okWrite _ _ rfl rfl]
  | desf fd =>
    have hwf := Config.fdImageWf_of_wf hcfg
    obtain ⟨⟨hoff, hend⟩, hsize⟩ : (6 ≤ s.cfg.fdDataOffset ∧
        s.cfg.fdDataOffset + 64 ≤ s.cfg.fdImageSize) ∧ s.cfg.fdImageSize ≤ 72 := by
      simpa [Config.fdImageWf] using hwf
    have hagree := hdin s.cfg.fdImageSize hsize fun k hk => by simpa [usesDin] using hk
    have hframe := fdOfImage_congr hwf hagree
    have hword : imageWordOf s.cfg.imageEndian s.port = imageWordOf s.cfg.imageEndian p := by
      simpa only [Command.fdOfImage_eq] using congrArg FdFrame.idw hframe
    rw [exec_desf, exec_desf]
    simp only [← hagree 4 (by omega), ← hword, ← hframe]
    split
    · exact sameEffect_fail _ (by decide)
    split
    exacts [sameEffect_fail _ (by decide), sameEffect_okWrite _ _ rfl rfl]
  | frtr fd => exact sameEffect_fail _ (by decide)
  | fclr fd => exact sameEffect_okWrite _ _ rfl rfl
  | gkind fs => exact sameEffect_ok _ _ rfl
  | fsbrs fs on | fsesi fs on => exact sameEffect_withFd (hslot fs) fun _ => sameEffect_okWrite _ _ rfl rfl
  | fgbrs fs | fgesi fs | fgflg fs => exact sameEffect_withFd (hslot fs) fun _ => sameEffect_ok _ _ rfl
  | gidw fs | graw fs | gsid fs | glen fs | gerrw fs | giserr fs | gisext fs | gdata fs =>
    exact sameEffect_withHeader (hslot fs) fun _ => sameEffect_ok _ _ rfl
  | gisrtr fs | ser fs | rend fs =>
    simp only [exec, execGisrtr, execSer, execRend, State.okBytes]
    exact sameEffect_withFrame (hslot fs) (sameEffect_ok _ _ rfl)
  | decerr fs =>
    simp only [exec, execDecerr, decerrWith]
    refine sameEffect_withFrame (hslot fs) ?_
    split
    exacts [sameEffect_ok _ _ rfl, sameEffect_fail _ (by decide)]
  | widen fd fs => exact sameEffect_withClassic (hslot fs) fun _ => sameEffect_okWrite _ _ rfl rfl
  | narrow fd fs =>
    refine sameEffect_withFd (hslot fs) fun f => ?_
    split
    exacts [sameEffect_fail _ (by decide), sameEffect_okWrite _ _ rfl rfl]
  | fmov fd fs =>
    simp only [exec, execFmov]
    refine sameEffect_withFrame (hslot fs) ?_
    exact sameEffect_okWrite _ _ rfl rfl
  | feq fs ft =>
    simp only [exec, execFeq]
    exact sameEffect_withFrame (hslot fs) (sameEffect_withFrame (hslot ft) (sameEffect_ok _ _ rfl))

end TwoPorts

/-- An effect carries the command port over, whatever it is. -/
theorem Effect.run_port (e : Effect) (s : State) (p : Command) :
    ∃ t, e.run s = .next t ∧ e.run { s with port := p } = .next { t with port := p } := by
  cases e <;> exact ⟨_, rfl, rfl⟩

/-- A system command carries the command port over, whatever it is. -/
theorem exec_system_port {i : Instr} (h : isSystem i = true) (s : State) (p : Command) :
    ∃ t, exec i s = .next t ∧ exec i { s with port := p } = .next { t with port := p } := by
  cases i <;> simp only [isSystem, Bool.false_eq_true] at h
  all_goals exact ⟨_, rfl, rfl⟩

/-- Settles O19: the one effect of the command, carried out at both ports. -/
theorem unusedOperandsAreIgnored : Obligations.UnusedOperandsAreIgnored := by
  intro i s p hcfg hp
  cases h : isSystem i with
  | true => exact exec_system_port h s p
  | false =>
    obtain ⟨e, -, he, he'⟩ := exec_sameEffect_of_agreeOnUsed hcfg h hp
    rw [he, he']
    exact e.run_port s p

end Sys2Proof.Machine
end

section
/-! SUPPORT. Laws of constructed, flagged and converted frames (files 41 to 44): what a command wrote, read back by the
accessors at the next state. -/

namespace Sys2Proof.Machine

open Sys2Proof.Safety

/-- What stands in the written slot after a command that completes `OK`. -/
theorem exists_next_of_answers {o : Host.Outcome State Fault Refusal} {s : State} {fd : SlotNo} {v : Slot}
    (h : Answers o s .ok 0 [] (slotsWith s fd v)) :
    ∃ t, o = .next t ∧ responseOf o = some ⟨.ok, 0, []⟩ ∧ t.slot fd = v ∧ t.cfg = s.cfg := by
  have hrsp := h.response
  obtain ⟨t, ht, -, -, -, hslot, -, -, hcfg⟩ := h
  exact ⟨t, ht, hrsp, by rw [hslot, slotsWith, if_pos rfl], hcfg⟩

/-! ## Classic frame construction (41_classic_frame.md) -/

/-- The meaningful bytes of a constructed payload are the first `DLEN` bytes of `DIN`. -/
theorem take_payloadBuffer {n : Nat} {p : Command} (h : p.dlen.toNat ≤ n) :
    (payloadBuffer n p).toList.take p.dlen.toNat = (List.range p.dlen.toNat).map p.dinByte := by
  apply List.ext_getElem (by simp [h])
  intro k hk _
  have hlt : k < p.dlen.toNat := (List.length_take_le _ _).trans_lt' hk
  simp [payloadBuffer, hlt]

/-- `GDATA` on a frame answers its length and its meaningful bytes. -/
theorem exec_gdata_of_header {s : State} {fs : SlotNo} {x : Header} (h : (s.slot fs).header = some x) :
    exec (.gdata fs) s = s.ok (x.len.setWidth 32) (s.slot fs).payload := by
  simp only [exec, execGdata]
  exact withHeader_of_header h _

/-- Settles O29: the slot `CNEW` writes is the frame of its operands, and each accessor reads its operand back off it. -/
theorem constructedClassicFrameReadsBack : Obligations.ConstructedClassicFrameReadsBack := by
  intro s fd err rtr ext hlen hid
  obtain ⟨t, ht, hrsp, hslot, -⟩ := exists_next_of_answers ((cnewResult s fd err rtr ext).1 hlen hid)
  have hheader : (t.slot fd).header = some ⟨idWord s.port.arg ext rtr err, s.port.dlen⟩ := by rw [hslot]; rfl
  obtain ⟨-, hraw, -, hglen, -, hiserr, hisext⟩ := (headerAccessors t fd).1 _ _ hheader
  have hisrtr := (gisrtrResult t fd).1 _ hslot
  rw [rawWord_idWord ext rtr err hid] at hraw
  rw [idWord_getLsbD_29 ext rtr err hid] at hiserr
  rw [idWord_getLsbD_30 ext rtr err hid] at hisrtr
  rw [idWord_getLsbD_31 ext rtr err hid] at hisext
  have hdata : responseOf (exec (.gdata fd) t) =
      some ⟨.ok, s.port.dlen.setWidth 32, (List.range s.port.dlen.toNat).map s.port.dinByte⟩ := by
    rw [exec_gdata_of_header hheader, hslot, ← take_payloadBuffer hlen]
    rfl
  obtain ⟨hzero, hpacked⟩ := exec_cnew_constructs s fd err rtr ext t ht ⟨_, by rwa [ht] at hrsp, rfl⟩
  exact ⟨t, ht, hrsp, hglen.response, hdata, hraw.response, hisext.response, hisrtr.response, hiserr.response,
    by rw [hslot]; exact (slotWf_classic_iff _).2 hlen, hzero, hpacked⟩

/-! ## FD flags (42_fd_frame.md) -/

/-- A flag is set when some bit of its mask is. -/
theorem hasMask_iff (flags mask : Byte) :
    hasMask flags mask = true ↔ ∃ k : Fin 8, mask.getLsbD k = true ∧ flags.getLsbD k = true := by
  rw [hasMask, bne_iff_ne, ne_eq, BitVec.eq_of_getLsbD_eq_iff]
  simp only [BitVec.getLsbD_and, BitVec.ofNat_eq_ofNat, BitVec.getLsbD_zero, not_forall, Bool.not_eq_false,
    Bool.and_eq_true, Fin.exists_iff, exists_prop, and_comm]

theorem exec_fgbrs_of_fd {s : State} {fs : SlotNo} {f : FdFrame} (h : s.slot fs = .fd f) :
    exec (.fgbrs fs) s = s.ok (boolWord (hasMask f.flags s.cfg.brsMask)) [] := by
  simp only [exec, execFgbrs]
  exact withFd_of_fd h _

theorem exec_fgesi_of_fd {s : State} {fs : SlotNo} {f : FdFrame} (h : s.slot fs = .fd f) :
    exec (.fgesi fs) s = s.ok (boolWord (hasMask f.flags s.cfg.esiMask)) [] := by
  simp only [exec, execFgesi]
  exact withFd_of_fd h _

theorem exec_fgflg_of_fd {s : State} {fs : SlotNo} {f : FdFrame} (h : s.slot fs = .fd f) :
    exec (.fgflg fs) s = s.ok (f.flags.setWidth 32) [] := by
  simp only [exec, execFgflg]
  exact withFd_of_fd h _

/-- A command that needs an `FD` slot completes `E_KIND` on any other (60_exceptions.md R162 step 2). -/
theorem answers_eKind_of_ne_fd {i : Instr} {s : State} {fs : SlotNo} (hr : reads i = [(fs, .fdOnly)])
    (h : ∀ f, s.slot fs ≠ .fd f) : Answers (exec i s) s .eKind 0 [] s.slot := by
  have hrefused : TagReq.fdOnly.accepts (s.slot fs) = false := by
    cases hs : s.slot fs with
    | fd f => exact absurd hs (h f)
    | empty | classic => rfl
  rw [exec_refused ⟨(fs, .fdOnly), by simp [hr], hrefused⟩]
  exact answers_fail s .eKind

/-- Settles O33: on an `FD` slot each reader answers by the flags byte, and a set flag is a bit shared with its mask; on any
other slot the tag is refused. -/
theorem flagReaders : Obligations.FlagReaders := by
  refine fun s fs => ⟨fun f hf => ⟨?_, ?_, ?_⟩, fun hne => ?_⟩
  · rw [exec_fgbrs_of_fd hf, ← if_congr (hasMask_iff f.flags s.cfg.brsMask) rfl rfl]
    exact answers_ok s _ []
  · rw [exec_fgesi_of_fd hf, ← if_congr (hasMask_iff f.flags s.cfg.esiMask) rfl rfl]
    exact answers_ok s _ []
  · rw [exec_fgflg_of_fd hf]
    exact answers_ok s _ []
  · exact ⟨answers_eKind_of_ne_fd rfl hne, answers_eKind_of_ne_fd rfl hne, answers_eKind_of_ne_fd rfl hne⟩

/-- The flag a mask was put for is the one that was put. -/
theorem hasMask_putMask_same (flags : Byte) {mask : Byte} (h : mask ≠ 0) (on : Bool) :
    hasMask (putMask flags mask on) mask = on := by
  cases on with
  | true =>
    have habsorb : (flags ||| mask) &&& mask = mask := by
      ext k hk
      cases hm : mask[k] <;> simp [hm]
    simpa [hasMask, putMask, habsorb] using h
  | false => simp [hasMask, putMask, BitVec.and_assoc]

section Disjoint

variable {m m' : Byte} (h : m &&& m' = 0)
include h

/-- A bit of one mask is no bit of the other. -/
theorem getLsbD_eq_false_of_disjoint {k : Nat} (hk : m.getLsbD k = true) : m'.getLsbD k = false := by
  have hand : (m &&& m').getLsbD k = false := by simp [h]
  simpa [hk] using hand

theorem putMask_and_of_disjoint (flags : Byte) (on : Bool) : putMask flags m on &&& m' = flags &&& m' := by
  apply BitVec.eq_of_getLsbD_eq
  intro k hk
  rw [BitVec.getLsbD_and, BitVec.getLsbD_and, putMask_getLsbD _ _ _ _ hk]
  split
  case isTrue hm => simp [getLsbD_eq_false_of_disjoint h hm]
  case isFalse => rfl

/-- Putting one flag leaves the other as it was. -/
theorem hasMask_putMask_of_disjoint (flags : Byte) (on : Bool) : hasMask (putMask flags m on) m' = hasMask flags m' := by
  rw [hasMask, hasMask, putMask_and_of_disjoint h]

theorem putMask_comm_of_disjoint (flags : Byte) (b c : Bool) :
    putMask (putMask flags m b) m' c = putMask (putMask flags m' c) m b := by
  apply BitVec.eq_of_getLsbD_eq
  intro k hk
  simp only [putMask_getLsbD _ _ _ _ hk]
  by_cases hm : m.getLsbD k
  · simp [hm, getLsbD_eq_false_of_disjoint h hm]
  · simp [hm]

end Disjoint

/-- The flags of a new frame are the two flags put into an empty byte. -/
theorem newFlags_eq_putMask {cfg : Config} (h : cfg.brsMask &&& cfg.esiMask = 0) (brs esi : Bool) :
    newFlags cfg brs esi = putMask (putMask 0 cfg.brsMask brs) cfg.esiMask esi := by
  cases esi with
  | true => cases brs <;> simp [newFlags, putMask]
  | false =>
    rw [putMask_comm_of_disjoint h]
    cases brs <;> simp [newFlags, putMask]

theorem oneBit_iff (m : Byte) : oneBit m = true ↔ ∃ k, k < 8 ∧ m = 1#8 <<< k := by
  simp [oneBit]

/-- Distinct single bits are not zero and share no bit. -/
theorem masks_of_wf {cfg : Config} (h : cfg.wf = true) :
    cfg.brsMask ≠ 0 ∧ cfg.esiMask ≠ 0 ∧ cfg.brsMask &&& cfg.esiMask = 0 := by
  have hbits : ∀ i < 8, ∀ j < 8, 1#8 <<< i ≠ 1#8 <<< j →
      1#8 <<< i ≠ 0 ∧ 1#8 <<< j ≠ 0 ∧ 1#8 <<< i &&& 1#8 <<< j = 0 := by decide
  simp only [Config.wf, Config.masksWf, Bool.and_eq_true, oneBit_iff, bne_iff_ne] at h
  obtain ⟨⟨⟨⟨⟨i, hi, hbrs⟩, ⟨j, hj, hesi⟩⟩, hne⟩, -⟩, -⟩ := h
  rw [hbrs, hesi] at hne ⊢
  exact hbits i hi j hj hne

/-- Two writes to one slot, one after the other, leave the second, whatever the first was. -/
theorem okWrite_after_okWrite {s t u : State} {fd : SlotNo} {v w : Slot} (ht : s.okWrite fd v = .next t)
    (hu : s.okWrite fd w = .next u) (x : Slot) : t.okWrite fd x = u.okWrite fd x := by
  obtain rfl := Host.Outcome.next.inj ht
  obtain rfl := Host.Outcome.next.inj hu
  have hset : ∀ y, ((s.setSlot fd y).complete .ok 0 []).setSlot fd x = (s.setSlot fd x).complete .ok 0 [] := fun y =>
    congrArg (State.complete · .ok 0 []) (State.setSlot_setSlot s fd y x)
  rw [State.okWrite, State.okWrite, hset, hset]

theorem exec_fsbrs_of_fd {s : State} {fs : SlotNo} {f : FdFrame} (h : s.slot fs = .fd f) (on : Bool) :
    exec (.fsbrs fs on) s = s.okWrite fs (.fd { f with flags := putMask f.flags s.cfg.brsMask on }) :=
  (exec_fsbrs fs on s).trans (withFd_of_fd h _)

theorem exec_fsesi_of_fd {s : State} {fs : SlotNo} {f : FdFrame} (h : s.slot fs = .fd f) (on : Bool) :
    exec (.fsesi fs on) s = s.okWrite fs (.fd { f with flags := putMask f.flags s.cfg.esiMask on }) :=
  (exec_fsesi fs on s).trans (withFd_of_fd h _)

theorem exec_fnew_of_le {s : State} (hlen : s.port.dlen.toNat ≤ 64) (hid : s.port.arg.toNat ≤ 0x1FFFFFFF) (fd : SlotNo)
    (esi brs err ext : Bool) :
    exec (.fnew fd esi brs err ext) s =
      s.okWrite fd (.fd ⟨idWord s.port.arg ext false err, s.port.dlen, newFlags s.cfg brs esi,
        payloadBuffer 64 s.port⟩) :=
  (exec_fnew fd esi brs err ext s).trans (construct_of_le fd ext false err _ hlen hid)

/-- Settles O34: the two flags are two disjoint masks put into one byte, so each reads back alone and the order in which
they are put does not matter; a new frame has both put into an empty byte. -/
theorem flagLaws : Obligations.FlagLaws := by
  intro s hwf
  obtain ⟨hbrs, hesi, hdisj⟩ := masks_of_wf hwf
  have hdisj' : s.cfg.esiMask &&& s.cfg.brsMask = 0 := by rw [BitVec.and_comm, hdisj]
  refine ⟨fun fs f b c hf => ?_, fun fd esi brs err ext hlen hid => ?_⟩
  · obtain ⟨t, ht, -, htslot, htcfg⟩ := exists_next_of_answers
      (answers_okWrite s fs (.fd { f with flags := putMask f.flags s.cfg.brsMask b }))
    obtain ⟨u, hu, -, huslot, hucfg⟩ := exists_next_of_answers
      (answers_okWrite s fs (.fd { f with flags := putMask f.flags s.cfg.esiMask c }))
    have hboth : exec (.fsbrs fs b) u = exec (.fsesi fs c) t := by
      rw [exec_fsbrs_of_fd huslot, exec_fsesi_of_fd htslot, okWrite_after_okWrite hu ht, htcfg, hucfg]
      simp only [putMask_comm_of_disjoint hdisj]
    obtain ⟨v, -, hv, -⟩ := exec_completion (.fsesi fs c) t
    refine ⟨t, u, v, (exec_fsbrs_of_fd hf b).trans ht, (exec_fsesi_of_fd hf c).trans hu, ?_, ?_, ?_, ?_, hv,
      hboth.trans hv⟩
    · rw [exec_fgbrs_of_fd htslot, htcfg, hasMask_putMask_same _ hbrs, boolWord_eq_bit]
      rfl
    · rw [exec_fgesi_of_fd htslot, exec_fgesi_of_fd hf, htcfg, hasMask_putMask_of_disjoint hdisj]
      rfl
    · rw [exec_fgesi_of_fd huslot, hucfg, hasMask_putMask_same _ hesi, boolWord_eq_bit]
      rfl
    · rw [exec_fgbrs_of_fd huslot, exec_fgbrs_of_fd hf, hucfg, hasMask_putMask_of_disjoint hdisj']
      rfl
  · rw [exec_fnew_of_le hlen hid, newFlags_eq_putMask hdisj]
    obtain ⟨t, ht, -, hslot, hcfg⟩ := exists_next_of_answers (answers_okWrite s fd _)
    refine ⟨t, ht, ?_, ?_⟩
    · rw [exec_fgbrs_of_fd hslot, hcfg, hasMask_putMask_of_disjoint hdisj', hasMask_putMask_same _ hbrs,
        boolWord_eq_bit]
      rfl
    · rw [exec_fgesi_of_fd hslot, hcfg, hasMask_putMask_same _ hesi, boolWord_eq_bit]
      rfl

end Sys2Proof.Machine
end

section
/-! SUPPORT. Laws of the kind conversions (44_union_conversions.md, 43_frame_contract.md): semantic equality is an
equivalence, a conversion changes nothing of the word but `RTR_FLAG`, and the two conversions undo each other but for that
flag, the flags byte and the tail. -/

namespace Sys2Proof.Machine

open Sys2Proof.Safety

/-! ## Semantic equality -/

theorem semEq_refl {a : Slot} (h : a ≠ .empty) : SemEq a a := by
  cases a with
  | empty => exact absurd rfl h
  | classic c => exact ⟨rfl, rfl, fun _ _ => rfl⟩
  | fd f => exact ⟨rfl, rfl, fun _ _ => rfl, rfl⟩

theorem semEq_symm : ∀ {a b : Slot}, SemEq a b → SemEq b a
  | .classic _, .classic _, ⟨hw, hl, hd⟩ => ⟨hw.symm, hl.symm, fun k hk => (hd k (hl ▸ hk)).symm⟩
  | .fd _, .fd _, ⟨hw, hl, hd, hf⟩ => ⟨hw.symm, hl.symm, fun k hk => (hd k (hl ▸ hk)).symm, hf.symm⟩

theorem semEq_trans : ∀ {a b c : Slot}, SemEq a b → SemEq b c → SemEq a c
  | .classic _, .classic _, .classic _, ⟨hw, hl, hd⟩, ⟨hw', hl', hd'⟩ =>
    ⟨hw.trans hw', hl.trans hl', fun k hk => (hd k hk).trans (hd' k (hl ▸ hk))⟩
  | .fd _, .fd _, .fd _, ⟨hw, hl, hd, hf⟩, ⟨hw', hl', hd', hf'⟩ =>
    ⟨hw.trans hw', hl.trans hl', fun k hk => (hd k hk).trans (hd' k (hl ▸ hk)), hf.trans hf'⟩

/-- Settles O45: the machine's relation is semantic equality, an equivalence on frames. -/
theorem feqIsAnEquivalence : Obligations.FeqIsAnEquivalence := by
  simp only [Obligations.FeqIsAnEquivalence, semEq_iff]
  exact ⟨fun _ => semEq_refl, fun _ _ => semEq_symm, fun _ _ _ => semEq_trans⟩

/-! ## The word without its remote flag -/

theorem withoutRtr_getLsbD {w : Word} {k : Nat} (hk : k < 32) :
    (withoutRtr w).getLsbD k = (decide (k ≠ 30) && w.getLsbD k) := by
  rw [← dropRtr_eq, dropRtr_getLsbD w k hk]

theorem withoutRtr_of_clear {w : Word} (h : w.getLsbD 30 = false) : withoutRtr w = w := by
  rw [withoutRtr, h, if_neg Bool.false_ne_true]

theorem withoutRtr_getLsbD_30 (w : Word) : (withoutRtr w).getLsbD 30 = false := by
  rw [withoutRtr_getLsbD (by decide)]
  rfl

theorem withoutRtr_withoutRtr (w : Word) : withoutRtr (withoutRtr w) = withoutRtr w :=
  withoutRtr_of_clear (withoutRtr_getLsbD_30 w)

/-- A mask that leaves bit 30 out does not see the remote flag. -/
theorem withoutRtr_and {m : Word} (h : m.getLsbD 30 = false) (w : Word) : withoutRtr w &&& m = w &&& m := by
  apply BitVec.eq_of_getLsbD_eq
  intro k hk
  rw [BitVec.getLsbD_and, BitVec.getLsbD_and, withoutRtr_getLsbD hk]
  by_cases h30 : k = 30
  · rw [h30, h, Bool.and_false, Bool.and_false]
  · simp [h30]

theorem rawWord_withoutRtr (w : Word) : rawWord (withoutRtr w) = rawWord w := by
  rw [← rawId_eq, ← rawId_eq, rawId, rawId, withoutRtr_and (by decide)]

theorem semWord_withoutRtr (w : Word) : semWord (withoutRtr w) = semWord w := by
  rw [← semId_toWord, ← semId_toWord, semId, semId, isExt, isExt, withoutRtr_and (by decide),
    withoutRtr_and (by decide), withoutRtr_and (by decide)]

theorem withoutRtr_and_of_or {w m : Word} (h : m.getLsbD 30 = false ∨ w.getLsbD 30 = false) :
    withoutRtr w &&& m = w &&& m := by
  rcases h with h | h
  · exact withoutRtr_and h w
  · rw [withoutRtr_of_clear h]

/-! ## The conversions as writes -/

theorem exec_widen_answers {s : State} {fs : SlotNo} {c : ClassicFrame} (h : s.slot fs = .classic c) (fd : SlotNo) :
    Answers (exec (.widen fd fs) s) s .ok 0 [] (slotsWith s fd (.fd c.widen)) := by
  rw [exec_widen, withClassic_of_classic h]
  exact answers_okWrite s fd _

theorem exec_narrow_answers {s : State} {fs : SlotNo} {f : FdFrame} (h : s.slot fs = .fd f) (hlen : f.len.toNat ≤ 8)
    (fd : SlotNo) : Answers (exec (.narrow fd fs) s) s .ok 0 [] (slotsWith s fd (.classic f.narrow)) := by
  rw [exec_narrow, withFd_of_fd h, if_neg (Nat.not_lt.2 hlen)]
  exact answers_okWrite s fd _

/-- Settles O39: the widened frame has the header of the classic one but for `RTR_FLAG`, which the other formulas do not
see. -/
theorem accessorsAgreeAcrossKinds : Obligations.AccessorsAgreeAcrossKinds := by
  intro s fd fs c hc
  obtain ⟨t, ht, -, hslot, hcfg⟩ := exists_next_of_answers (exec_widen_answers hc fd)
  have hclassic : (s.slot fs).header = some ⟨c.idw, c.len⟩ := by rw [hc]; rfl
  have hwide : (t.slot fd).header = some ⟨withoutRtr c.idw, c.len⟩ := by rw [hslot, ClassicFrame.widen_eq]; rfl
  obtain ⟨-, hraw, hsid, hlen, herrw, hiserr, hisext⟩ := (headerAccessors s fs).1 _ _ hclassic
  obtain ⟨hidw', hraw', hsid', hlen', herrw', hiserr', hisext'⟩ := (headerAccessors t fd).1 _ _ hwide
  rw [rawWord_withoutRtr] at hraw'
  rw [semWord_withoutRtr] at hsid'
  rw [hcfg] at herrw'
  rw [withoutRtr_getLsbD (by decide)] at hiserr' hisext'
  refine ⟨t, ht, hraw'.response.trans hraw.response.symm, hsid'.response.trans hsid.response.symm,
    hlen'.response.trans hlen.response.symm, fun h => ?_, hiserr'.response.trans hiserr.response.symm,
    hisext'.response.trans hisext.response.symm, hidw'.response⟩
  rw [herrw'.response, herrw.response, withoutRtr_and_of_or h]

/-! ## Round trips -/

/-- Narrowing a widened frame gives its word without the remote flag and its bytes with the tail zeroed. -/
theorem narrow_widen (c : ClassicFrame) :
    c.widen.narrow = ⟨withoutRtr c.idw, c.len, zeroFilled 8 c.len.toNat (bufByte c.data)⟩ := by
  have hdata : zeroFilled 8 c.len.toNat (bufByte (filled 64 (bufByte c.data))) =
      zeroFilled 8 c.len.toNat (bufByte c.data) := zeroFilled_congr fun k hk _ => by
    rw [bufByte_of_lt _ (by omega), filled_getElem]
  rw [FdFrame.narrow, dropRtr_eq, ClassicFrame.widen, dropRtr_eq, withoutRtr_withoutRtr, hdata]

theorem semEq_narrow_widen (c : ClassicFrame) :
    SemEq (.classic { c with idw := withoutRtr c.idw }) (.classic c.widen.narrow) := by
  rw [narrow_widen]
  refine ⟨rfl, rfl, fun k hk => ?_⟩
  by_cases h8 : k < 8
  · simp [h8, hk, bufByte_of_lt]
  · simp [h8]

theorem narrow_widen_of_zeroTail {c : ClassicFrame} (h : zeroTail (.classic c)) :
    c.widen.narrow = { c with idw := withoutRtr c.idw } := by
  have hdata : zeroFilled 8 c.len.toNat (bufByte c.data) = c.data := by
    apply Vector.ext
    intro k hk
    rw [zeroFilled_getElem, bufByte_of_lt _ hk]
    split
    · rfl
    · exact (h ⟨k, hk⟩ (Nat.not_lt.1 ‹_›)).symm
  rw [narrow_widen, hdata]

/-- Widening a narrowed frame gives its word without the remote flag, no flags, and its first bytes with a zero tail. -/
theorem widen_narrow (f : FdFrame) :
    f.narrow.widen =
      ⟨withoutRtr f.idw, f.len, 0, filled 64 (bufByte (zeroFilled 8 f.len.toNat (bufByte f.data)))⟩ := by
  rw [ClassicFrame.widen, dropRtr_eq, FdFrame.narrow, dropRtr_eq, withoutRtr_withoutRtr]

theorem widen_narrow_data {f : FdFrame} (h : f.len.toNat ≤ 8) (k : Fin 64) :
    f.narrow.widen.data[k] = if k.val < f.len.toNat then f.data[k] else 0 := by
  have hk : f.narrow.widen.data[k] = bufByte (zeroFilled 8 f.len.toNat (bufByte f.data)) k.val := by
    rw [widen_narrow]
    exact filled_getElem 64 _ k.val k.isLt
  rw [hk]
  by_cases h8 : k.val < 8
  · rw [bufByte_of_lt _ h8, zeroFilled_getElem, bufByte_of_lt _ k.isLt]
    rfl
  · have hlen : ¬ k.val < f.len.toNat := by omega
    simp [bufByte, h8, hlen]

/-- Settles O46: each round trip is one write after the other, and the frame that comes back is the converted conversion. -/
theorem conversionRoundTrips : Obligations.ConversionRoundTrips := by
  refine ⟨fun s fd gd fs c hc hlen => ?_, fun s fd fs f => (narrowResult s fd fs).2.1 f,
    fun s fd gd fs f hf hwf hlen => ?_⟩
  · obtain ⟨t, ht, -, htslot, -⟩ := exists_next_of_answers (exec_widen_answers hc fd)
    obtain ⟨u, hu, hrsp, huslot, -⟩ := exists_next_of_answers (exec_narrow_answers htslot hlen gd)
    refine ⟨t, u, c.widen.narrow, ht, hu, hrsp, huslot, fun hclear => ?_, fun hset => ?_⟩
    · have hsem := semEq_narrow_widen c
      have htail := narrow_widen_of_zeroTail (c := c)
      rw [withoutRtr_of_clear hclear] at hsem htail
      exact ⟨hsem, htail⟩
    · refine ⟨semEq_narrow_widen c, narrow_widen_of_zeroTail, fun hsem => ?_⟩
      have hword : c.idw = withoutRtr c.idw := (narrow_widen c ▸ hsem).1
      rw [hword, withoutRtr_getLsbD_30] at hset
      exact Bool.false_ne_true hset
  · obtain ⟨t, ht, -, htslot, -⟩ := exists_next_of_answers (exec_narrow_answers hf hlen fd)
    obtain ⟨u, hu, hrsp, huslot, -⟩ := exists_next_of_answers (exec_widen_answers htslot gd)
    refine ⟨t, u, f.narrow.widen, ht, hu, hrsp, huslot, ?_, rfl, rfl, widen_narrow_data hlen⟩
    rw [widen_narrow, withoutRtr_of_clear (getLsbD_30_of_slotWf_fd hwf)]

end Sys2Proof.Machine
end

section
/-! SUPPORT. The laws of the image commands (45_raw_image.md): a port that holds the image of a frame holds the frame, the
image of a frame read off a port is the port's own bytes but for the padding, and an image determines its frame. -/

namespace Sys2Proof.Machine

open Sys2Proof.Safety

/-! ## The identifier word and its bytes -/

/-- `word_bytes` undoes `word_of`. -/
theorem imageWordByte_imageWordOf (e : Endian) (p : Command) {k : Nat} (hk : k < 4) :
    imageWordByte e (imageWordOf e p) k = p.dinByte k := by
  have h0 := (p.dinByte 0).isLt
  have h1 := (p.dinByte 1).isLt
  have h2 := (p.dinByte 2).isLt
  have h3 := (p.dinByte 3).isLt
  have hk4 : k = 0 ∨ k = 1 ∨ k = 2 ∨ k = 3 := by omega
  apply BitVec.eq_of_toNat_eq
  cases e with
  | little =>
    rw [imageWordByte, BitVec.extractLsb'_toNat, Nat.shiftRight_eq_div_pow, imageWordOf, BitVec.toNat_ofNat]
    rcases hk4 with rfl | rfl | rfl | rfl <;> omega
  | big =>
    rw [imageWordByte, BitVec.extractLsb'_toNat, Nat.shiftRight_eq_div_pow, imageWordOf, BitVec.toNat_ofNat]
    rcases hk4 with rfl | rfl | rfl | rfl <;> omega

theorem wordBytes_injective (e : Endian) : Function.Injective (wordBytes e) := fun v w h => by
  have hbyte : ∀ k, k < 4 → imageWordByte e v k = imageWordByte e w k := fun k hk =>
    Option.some.inj (by rw [← wordBytes_getElem? e v k hk, h, wordBytes_getElem? e w k hk])
  rw [← wordOf_bytes e v, hbyte 0 (by decide), hbyte 1 (by decide), hbyte 2 (by decide), hbyte 3 (by decide),
    wordOf_bytes]

/-! ## An image determines its frame -/

/-- The parts of two images of one layout stand at the same places. -/
theorem imageLayout_inj {e : Endian} {w w' : Word} {fields fields' : List Byte} {off size n : Nat}
    {data data' : Vector Byte n} (h : imageLayout e w fields off size data = imageLayout e w' fields' off size data')
    (hlen : fields.length = fields'.length) :
    w = w' ∧ fields = fields' ∧ data = data' := by
  simp only [imageLayout, imageHead, List.append_assoc] at h
  obtain ⟨hword, h⟩ := List.append_inj h (by simp)
  obtain ⟨hfields, h⟩ := List.append_inj h hlen
  obtain ⟨-, h⟩ := List.append_inj h (by simp [hlen])
  obtain ⟨hdata, -⟩ := List.append_inj h (by simp)
  exact ⟨wordBytes_injective e hword, hfields, Vector.toList_inj.1 hdata⟩

theorem classicImage_injective (cfg : Config) : Function.Injective (classicImage cfg) := fun a b h => by
  rw [classicImage_eq_imageLayout, classicImage_eq_imageLayout] at h
  obtain ⟨hword, hfields, hdata⟩ := imageLayout_inj h rfl
  obtain ⟨hlen, -⟩ := List.cons.inj hfields
  cases a
  cases b
  simp_all

theorem fdImage_injective (cfg : Config) : Function.Injective (fdImage cfg) := fun a b h => by
  rw [fdImage_eq_imageLayout, fdImage_eq_imageLayout] at h
  obtain ⟨hword, hfields, hdata⟩ := imageLayout_inj h rfl
  obtain ⟨hlen, htail⟩ := List.cons.inj hfields
  obtain ⟨hflags, -⟩ := List.cons.inj htail
  cases a
  cases b
  simp_all

/-! ## Loading an image -/

/-- The port holds a byte list at the start of `DIN`. -/
def Holds (p : Command) (img : List Byte) : Prop := ∀ k b, img[k]? = some b → p.dinByte k = b

theorem holds_of_din {p : Command} {img : List Byte} (h : ∀ k, k < img.length → p.din[k]? = img[k]?) : Holds p img := by
  intro k b hb
  obtain ⟨hk, -⟩ := List.getElem?_eq_some_iff.1 hb
  rw [Command.dinByte, h k hk, hb]
  rfl

/-- The four bytes of a word read back as the word. -/
theorem imageWord_of_bytes {e : Endian} {p : Command} {w : Word} (h : ∀ k, k < 4 → p.dinByte k = imageWordByte e w k) :
    p.imageWord e = w := by
  rw [Command.imageWord, h 0 (by decide), h 1 (by decide), h 2 (by decide), h 3 (by decide), wordOf_bytes]

theorem classicOfImage_of_holds {cfg : Config} {p : Command} {c : ClassicFrame} {img : List Byte}
    (himg : isClassicImage cfg c img) (h : Holds p img) : p.classicOfImage cfg = c := by
  obtain ⟨-, hword, hlen, hdata, -⟩ := himg
  have hbuf : filled 8 (fun k => p.dinByte (cfg.classicDataOffset + k)) = c.data := by
    apply Vector.ext
    intro k hk
    rw [filled_getElem, h _ _ (hdata ⟨k, hk⟩)]
    rfl
  rw [Command.classicOfImage, imageWord_of_bytes fun k hk => h _ _ (hword k hk), Command.imageLen, h _ _ hlen, hbuf]

theorem fdOfImage_of_holds {cfg : Config} {p : Command} {f : FdFrame} {img : List Byte}
    (himg : isFdImage cfg f img) (h : Holds p img) : p.fdOfImage cfg = f := by
  obtain ⟨-, hword, hlen, hflags, hdata, -⟩ := himg
  have hbuf : filled 64 (fun k => p.dinByte (cfg.fdDataOffset + k)) = f.data := by
    apply Vector.ext
    intro k hk
    rw [filled_getElem, h _ _ (hdata ⟨k, hk⟩)]
    rfl
  rw [Command.fdOfImage, imageWord_of_bytes fun k hk => h _ _ (hword k hk), Command.imageLen, h _ _ hlen, h _ _ hflags,
    hbuf]

/-- `DESC` of the image of a classic frame that meets the invariant writes that frame. -/
theorem exec_desc_of_holds {u : State} {c : ClassicFrame} (fd : SlotNo) (hcfg : u.cfg.wf = true)
    (hwf : slotWf (.classic c) = true) (h : Holds u.port (classicImage u.cfg c)) :
    Answers (exec (.desc fd) u) u .ok 0 [] (slotsWith u fd (.classic c)) := by
  have hframe := classicOfImage_of_holds (isClassicImage_classicImage (Config.classicImageWf_of_wf hcfg) c) h
  have hlen : (u.port.dinByte 4).toNat ≤ 8 := by
    have heq : u.port.dinByte 4 = c.len := congrArg ClassicFrame.len hframe
    rw [heq]
    exact (slotWf_classic_iff c).1 hwf
  rw [exec_desc, if_neg (Nat.not_lt.2 hlen), hframe]
  exact answers_okWrite u fd _

/-- `DESF` of the image of an FD frame that meets the invariant writes that frame. -/
theorem exec_desf_of_holds {u : State} {f : FdFrame} (fd : SlotNo) (hcfg : u.cfg.wf = true)
    (hwf : slotWf (.fd f) = true) (h : Holds u.port (fdImage u.cfg f)) :
    Answers (exec (.desf fd) u) u .ok 0 [] (slotsWith u fd (.fd f)) := by
  have hframe := fdOfImage_of_holds (isFdImage_fdImage (Config.fdImageWf_of_wf hcfg) f) h
  obtain ⟨hflen, hclear⟩ := (slotWf_fd_iff f).1 hwf
  have hlen : u.port.dinByte 4 = f.len := congrArg FdFrame.len hframe
  have hword : imageWordOf u.cfg.imageEndian u.port = f.idw := by
    rw [← imageWord_eq]
    exact congrArg FdFrame.idw hframe
  rw [exec_desf, hlen, hword, hclear, if_neg (Nat.not_lt.2 hflen), if_neg Bool.false_ne_true, hframe]
  exact answers_okWrite u fd _

/-! ## Serialising a loaded image -/

/-- `SER` on a frame responds with its image. -/
theorem ser_response {s : State} {fs : SlotNo} (hne : s.slot fs ≠ .empty) :
    responseOf (exec (.ser fs) s) =
      some ⟨.ok, BitVec.ofNat 32 ((s.slot fs).image s.cfg).length, (s.slot fs).image s.cfg⟩ := by
  rw [exec_ser_of_ne_empty hne]
  exact (answers_okBytes s _).response

theorem ser_response_classic {s : State} {fs : SlotNo} {c : ClassicFrame} (h : s.slot fs = .classic c) :
    ∃ r, responseOf (exec (.ser fs) s) = some r ∧ r.bytes = classicImage s.cfg c :=
  ⟨_, ser_response (by simp [h]), by rw [h, Slot.image]⟩

theorem ser_response_fd {s : State} {fs : SlotNo} {f : FdFrame} (h : s.slot fs = .fd f) :
    ∃ r, responseOf (exec (.ser fs) s) = some r ∧ r.bytes = fdImage s.cfg f :=
  ⟨_, ser_response (by simp [h]), by rw [h, Slot.image]⟩

theorem classicOfImage_data (cfg : Config) (p : Command) (k : Fin 8) :
    (p.classicOfImage cfg).data[k] = p.dinByte (cfg.classicDataOffset + k.val) :=
  filled_getElem 8 (fun j => p.dinByte (cfg.classicDataOffset + j)) k.val k.isLt

theorem fdOfImage_data (cfg : Config) (p : Command) (k : Fin 64) :
    (p.fdOfImage cfg).data[k] = p.dinByte (cfg.fdDataOffset + k.val) :=
  filled_getElem 64 (fun j => p.dinByte (cfg.fdDataOffset + j)) k.val k.isLt

/-- Byte by byte, the image of a classic frame read off a port is what the port holds, with the padding zeroed. -/
theorem classicImage_classicOfImage {cfg : Config} (hcfg : cfg.classicImageWf = true) (p : Command) {k : Nat}
    (hk : k < cfg.classicImageSize) :
    (classicImage cfg (p.classicOfImage cfg))[k]? = some (
      if k < 5 ∨ (cfg.classicDataOffset ≤ k ∧ k < cfg.classicDataOffset + 8) then p.dinByte k else 0) := by
  obtain ⟨-, hword, hlen, hdata, hpad⟩ := isClassicImage_classicImage hcfg (p.classicOfImage cfg)
  rcases (by omega : k < 4 ∨ k = 4 ∨ 5 ≤ k) with h4 | rfl | h5
  · rw [hword k h4, if_pos (.inl (by omega)), Command.classicOfImage_eq, imageWordByte_imageWordOf _ p h4]
  · rw [hlen, if_pos (.inl (by omega))]
    rfl
  · by_cases hpay : cfg.classicDataOffset ≤ k ∧ k < cfg.classicDataOffset + 8
    · obtain ⟨j, rfl⟩ := Nat.exists_eq_add_of_le hpay.1
      rw [hdata ⟨j, by omega⟩, if_pos (.inr hpay), classicOfImage_data]
    · rw [hpad k (by omega), if_neg (by omega)]

/-- Byte by byte, the image of an FD frame read off a port is what the port holds, with the padding zeroed. -/
theorem fdImage_fdOfImage {cfg : Config} (hcfg : cfg.fdImageWf = true) (p : Command) {k : Nat}
    (hk : k < cfg.fdImageSize) :
    (fdImage cfg (p.fdOfImage cfg))[k]? = some (
      if k < 6 ∨ (cfg.fdDataOffset ≤ k ∧ k < cfg.fdDataOffset + 64) then p.dinByte k else 0) := by
  obtain ⟨-, hword, hlen, hflags, hdata, hpad⟩ := isFdImage_fdImage hcfg (p.fdOfImage cfg)
  rcases (by omega : k < 4 ∨ k = 4 ∨ k = 5 ∨ 6 ≤ k) with h4 | rfl | rfl | h6
  · rw [hword k h4, if_pos (.inl (by omega)), Command.fdOfImage_eq, imageWordByte_imageWordOf _ p h4]
  · rw [hlen, if_pos (.inl (by omega))]
    rfl
  · rw [hflags, if_pos (.inl (by omega))]
    rfl
  · by_cases hpay : cfg.fdDataOffset ≤ k ∧ k < cfg.fdDataOffset + 64
    · obtain ⟨j, rfl⟩ := Nat.exists_eq_add_of_le hpay.1
      rw [hdata ⟨j, by omega⟩, if_pos (.inr hpay), fdOfImage_data]
    · rw [hpad k (by omega), if_neg (by omega)]

/-- Settles O50: a port that holds the image `SER` answers holds the frame; the frame a load writes has the port's bytes as
its image but for the padding; and either image is injective. -/
theorem imageRoundTrips : Obligations.ImageRoundTrips := by
  refine ⟨fun s u fs fd r hu hwf hslot hne hr hdin => ?_, fun s fd hwf hlen => ?_, fun s fd hwf hlen hclear => ?_,
    fun cfg _ _ h => classicImage_injective cfg h, fun cfg _ _ h => fdImage_injective cfg h⟩
  · rw [ser_response hne] at hr
    obtain rfl := Option.some.inj hr
    have hholds := holds_of_din hdin
    rw [← hu] at hwf hholds
    cases hs : s.slot fs with
    | empty => exact absurd hs hne
    | classic c =>
      rw [hs] at hslot hholds
      exact ⟨fun _ => exec_desc_of_holds fd hwf hslot hholds, fun htag => absurd htag (by simp [Slot.tagCode])⟩
    | fd f =>
      rw [hs] at hslot hholds
      exact ⟨fun htag => absurd htag (by simp [Slot.tagCode]), fun _ => exec_desf_of_holds fd hwf hslot hholds⟩
  · have himg := Config.classicImageWf_of_wf hwf
    rw [exec_desc, if_neg (Nat.not_lt.2 hlen)]
    obtain ⟨t, ht, -, htslot, hcfg⟩ := exists_next_of_answers
      (answers_okWrite s fd (.classic (s.port.classicOfImage s.cfg)))
    obtain ⟨r, hr, hbytes⟩ := ser_response_classic htslot
    refine ⟨t, r, ht, hr, ?_⟩
    rw [hbytes, hcfg]
    exact ⟨classicImage_length s.cfg _ himg, fun k => classicImage_classicOfImage himg s.port⟩
  · have himg := Config.fdImageWf_of_wf hwf
    rw [exec_desf, if_neg (Nat.not_lt.2 hlen), hclear, if_neg Bool.false_ne_true]
    obtain ⟨t, ht, -, htslot, hcfg⟩ := exists_next_of_answers (answers_okWrite s fd (.fd (s.port.fdOfImage s.cfg)))
    obtain ⟨r, hr, hbytes⟩ := ser_response_fd htslot
    refine ⟨t, r, ht, hr, ?_⟩
    rw [hbytes, hcfg]
    exact ⟨fdImage_length s.cfg _ himg, fun k => fdImage_fdOfImage himg s.port⟩

end Sys2Proof.Machine
end
